-- ==== Sys2Proof/Word.lean ====
section
/-! DEFINITION. The bit-vector types of the hardware (spec/00_scope.md R9, R12). Every value is an unsigned bit vector of a
stated width and bit 0 is the least significant bit. -/

namespace Sys2Proof

/-- Four bits: one S-box input or output (40_sbox_tables.md R112). -/
abbrev Nibble := BitVec 4

/-- Eight bits: one buffer byte or table index (R12). -/
abbrev Byte := BitVec 8

/-- Thirty-two bits: WORD_BITS of R9, the width of a half block, a round key, a lane and a table entry. -/
abbrev Word := BitVec 32

/-- Two hundred and fifty-six bits: VREG_BITS of R9, one vector register of eight lanes (R15). -/
abbrev VReg := BitVec 256

end Sys2Proof
end

