-- ==== Sys2Proof/Syntax.lean ====
section
/-! DEFINITION. The six commands of spec/30_encoding.md R82, one constructor per row of spec/opcode_table.json. The one
explicit operand is LEN, "an unsigned 8-bit count" (R83): the number of input bytes the host declares it has supplied. -/

namespace Sys2Proof

/-- A command word that decodes. `len` is the LEN field (R81), kept because a wrong one faults with the word recorded
(60_exceptions.md R254). DEDUCED, log 8. -/
inductive Instr where
  /-- OPC 0x01, 43_key_schedule.md R172. -/
  | setkey (len : Nat)
  /-- OPC 0x02, 43_key_schedule.md R173. -/
  | setkeyv (len : Nat)
  /-- OPC 0x03, 44_feistel_scalar.md R192. -/
  | enc1 (len : Nat)
  /-- OPC 0x04, 46_feistel_vector.md R232. -/
  | enc8 (len : Nat)
  /-- OPC 0x05, 41_round_scalar.md R136. -/
  | rndfn (len : Nat)
  /-- OPC 0x06, 42_round_vector.md R157. -/
  | vrndfn (len : Nat)
deriving DecidableEq, Repr

/-- The LEN field of a command. -/
def Instr.len : Instr → Nat
  | .setkey n => n
  | .setkeyv n => n
  | .enc1 n => n
  | .enc8 n => n
  | .rndfn n => n
  | .vrndfn n => n

end Sys2Proof
end

