-- ==== Sys2Proof/WellFormed.lean ====
section
/-! DEFINITION. When a command is one that a 32-bit word can express (spec/30_encoding.md R81). A wrong LEN is well formed: it
is a command that faults with SizeMismatch (60_exceptions.md R254). -/

namespace Sys2Proof

/-- LEN is "unsigned, 0..255" (R81): the only bound the encoding puts on a command. -/
abbrev Instr.WellFormed (i : Instr) : Prop := i.len < 256

end Sys2Proof
end

