-- ==== Sys2Proof/Decode.lean ====
section
/-! DEFINITION. Decoding and encoding of command words (spec/30_encoding.md R80 to R86). A command is the 32-bit value written
to CMD; there is no byte layout and no fetch (20_memory.md R55, R70). -/

namespace Sys2Proof

/-- Why a word is no command (R85). Both are raised as IllegalCommand (60_exceptions.md R253). -/
inductive DecodeError where
  /-- `RSV != 0`. -/
  | reservedBits
  /-- OPC 0x00 or 0x07 to 0xFF. -/
  | unknownOpcode
deriving DecidableEq, Repr

/-- What the decoder answers. -/
inductive Decoded where
  | command (i : Instr)
  | rejected (e : DecodeError)
deriving DecidableEq, Repr

/-- `OPC = w[7:0]` (R81). -/
def opcField (w : Word) : Byte := w.extractLsb' 0 8

/-- `LEN = w[15:8]` (R81). -/
def lenField (w : Word) : Byte := w.extractLsb' 8 8

/-- `RSV = w[31:16]` (R81). -/
def rsvField (w : Word) : BitVec 16 := w.extractLsb' 16 16

/-- The opcode map of R82. -/
def commandOfOpc (opc : Byte) (len : Nat) : Option Instr :=
  if opc = 0x01#8 then some (.setkey len)
  else if opc = 0x02#8 then some (.setkeyv len)
  else if opc = 0x03#8 then some (.enc1 len)
  else if opc = 0x04#8 then some (.enc8 len)
  else if opc = 0x05#8 then some (.rndfn len)
  else if opc = 0x06#8 then some (.vrndfn len)
  else none

/-- The decoder, total on all 2^32 words (R86): RSV is tested, then OPC, in the order of R80. -/
def decode (w : Word) : Decoded :=
  if rsvField w ≠ 0#16 then .rejected .reservedBits
  else
    match commandOfOpc (opcField w) (lenField w).toNat with
    | some i => .command i
    | none => .rejected .unknownOpcode

/-- `ReqLen` of R84: the size of the input each entry point takes. -/
def Instr.reqLen : Instr → Nat
  | .setkey _ => 32
  | .setkeyv _ => 32
  | .enc1 _ => 8
  | .enc8 _ => 64
  | .rndfn _ => 8
  | .vrndfn _ => 64

/-- The operation code of a command (R82). -/
def Instr.opc : Instr → Byte
  | .setkey _ => 0x01#8
  | .setkeyv _ => 0x02#8
  | .enc1 _ => 0x03#8
  | .enc8 _ => 0x04#8
  | .rndfn _ => 0x05#8
  | .vrndfn _ => 0x06#8

/-- The word of a command, format C of R81: sixteen zero bits, LEN, OPC. -/
def encode (i : Instr) : Word := 0#16 ++ BitVec.ofNat 8 i.len ++ i.opc

/-- One row of the machine-readable table of R82: `w & mask = match` selects the command; `len` is the required LEN. -/
structure CommandRow where
  matchWord : Word
  mask : Word
  len : Nat
  command : Nat → Instr

/-- The six rows of spec/opcode_table.json. -/
def commandTable : List CommandRow :=
  [ { matchWord := 0x00000001#32, mask := 0xFFFF00FF#32, len := 32, command := .setkey },
    { matchWord := 0x00000002#32, mask := 0xFFFF00FF#32, len := 32, command := .setkeyv },
    { matchWord := 0x00000003#32, mask := 0xFFFF00FF#32, len := 8, command := .enc1 },
    { matchWord := 0x00000004#32, mask := 0xFFFF00FF#32, len := 64, command := .enc8 },
    { matchWord := 0x00000005#32, mask := 0xFFFF00FF#32, len := 8, command := .rndfn },
    { matchWord := 0x00000006#32, mask := 0xFFFF00FF#32, len := 64, command := .vrndfn } ]

/-- Whether a row selects a word (R82). -/
def CommandRow.selects (r : CommandRow) (w : Word) : Bool := w &&& r.mask == r.matchWord

/-- The decoder "written from `opcode_table.json` alone" (R86): the selected row and the LEN it extracts, `none` where no
row matches and IllegalCommand is raised. -/
def decodeByTable (w : Word) : Option (Instr × Nat) :=
  (commandTable.find? (·.selects w)).map fun r => (r.command (lenField w).toNat, r.len)

/-- What the decoder reads from the `nbits` bits `w` of a table row, every bit above them zero. A value that needs more than
the 32 bits of a command word is no command. -/
def decodeTableWord (nbits w : Nat) : Option Instr :=
  if w % 2 ^ nbits < 2 ^ 32 then
    match decode (BitVec.ofNat 32 (w % 2 ^ nbits)) with
    | .command i => some i
    | .rejected _ => none
  else none

end Sys2Proof
end

