-- ==== Sys2Proof/Config.lean ====
section
/-! DEFINITION. What an implementation or a platform fixes (spec/00_scope.md R2, R9, R10) and the free values of what the
spec leaves unspecified. Every `opaque` constant here has no body: no proof can learn a value of it. Each takes the number
`unit` of the instance it belongs to, since instances share nothing but the table constants (60_exceptions.md R270). -/

namespace Sys2Proof.Config

/-- The identity fields R2 names: name, command-set version, cipher. -/
structure Identity where
  name : String
  commandSetVersion : Nat
  cipher : String
deriving DecidableEq, Repr

/-- R2. -/
def identity : Identity :=
  { name := "magma-boost CORE", commandSetVersion := 1,
    cipher := "GOST 28147-89 / Magma, encryption direction only" }

/-- Bytes in one block (R9 BLOCK_BYTES). -/
abbrev blockBytes : Nat := 8
/-- Bytes in the key (R9 KEY_BYTES). -/
abbrev keyBytes : Nat := 32
/-- Key words K0..K7 (R9 KEY_WORDS). -/
abbrev keyWords : Nat := 8
/-- Rounds of the Feistel network and entries of a schedule (R9 ROUNDS). -/
abbrev rounds : Nat := 32
/-- Lanes of a vector register (R9 LANES). -/
abbrev lanes : Nat := 8
/-- Bytes in a lane-packed block set (R9 VBLOCK_BYTES). -/
abbrev vblockBytes : Nat := 64
/-- Substitution tables T0..T3 (R9 NTABLES). -/
abbrev tables : Nat := 4
/-- Entries per table (R9 TABLE_ENTRIES). -/
abbrev tableEntries : Nat := 256

/-- The platform's choice behind BASE (20_memory.md R60): BASE is a multiple of 4, so it is four times this number.
DESIGN CHOICE, log 11. -/
opaque baseIndex (unit : Nat) : Nat

/-- BASE of instance number `unit`, the platform address of its register window: "a platform-chosen address `BASE`, which must
be a multiple of 4" (R60), one for each instance (60_exceptions.md R270). -/
def base (unit : Nat) : Nat := 4 * baseIndex unit

/-- DESIGN CHOICE, log 4: what the byte at a window offset reads as while nothing has written it since reset number `epoch`:
"any value, the same on every read until the location is written" (20_memory.md R61). Free. -/
opaque unwrittenByte (unit epoch offset : Nat) : Byte

/-- DESIGN CHOICE, log 3: what `RK[r]` holds after reset number `epoch`: unspecified (10_state.md R38). Free. -/
opaque unspecifiedRoundKey (unit epoch r : Nat) : Word

/-- DESIGN CHOICE, log 3: what `VRK[r]` holds after reset number `epoch`: unspecified (10_state.md R38). Free. -/
opaque unspecifiedVectorRoundKey (unit epoch r : Nat) : VReg

/-- DESIGN CHOICE, log 5: a scalar working register between commands: unspecified (10_state.md R26). Free. -/
opaque unspecifiedScalar (unit draw register : Nat) : Word

/-- DESIGN CHOICE, log 5: the round counter between commands: unspecified (10_state.md R26). Free. -/
opaque unspecifiedCounter (unit draw : Nat) : BitVec 6

/-- DESIGN CHOICE, log 5: a vector working register between commands: unspecified (10_state.md R26). Free. -/
opaque unspecifiedVector (unit draw register : Nat) : VReg

end Sys2Proof.Config
end

