-- ==== Sys2Proof/Machine/Bits.lean ====
section
/-! DEFINITION. The arithmetic, byte-order and lane primitives of spec/00_scope.md R13 to R15. All are total. -/

namespace Sys2Proof.Machine

/-- R13: `(a + b) mod 2^32`, the carry out of bit 31 discarded. -/
def add32 (a b : Word) : Word := a + b

/-- R13: bitwise exclusive or. -/
def xor32 (a b : Word) : Word := a ^^^ b

/-- R13: bit i of `a` moves to bit (i + n) mod 32, toward the most significant bit. -/
def rotl32 (a : Word) (n : Nat) : Word := a.rotateLeft n

/-- R13: `byte(w, p) = w[8p+7:8p]`. -/
def byteOf (w : Word) (p : Nat) : Byte := w.extractLsb' (8 * p) 8

/-- R13: the four bytes of a word reversed. -/
def bswap32 (w : Word) : Word := byteOf w 0 ++ byteOf w 1 ++ byteOf w 2 ++ byteOf w 3

/-- R112: nibble position i of a word, `w[4i+3:4i]`. -/
def nibbleOf (w : Word) (i : Nat) : Nibble := w.extractLsb' (4 * i) 4

/-- R14: the word whose most significant byte is at the lowest index. -/
def be32 (b : Nat → Byte) (o : Nat) : Word := b o ++ b (o + 1) ++ b (o + 2) ++ b (o + 3)

/-- R14: the word whose least significant byte is at the lowest index. -/
def le32 (b : Nat → Byte) (o : Nat) : Word := b (o + 3) ++ b (o + 2) ++ b (o + 1) ++ b o

/-- R14: the bytes `PutBE32` writes, lowest index first. -/
def be32Bytes (w : Word) : List Byte := [byteOf w 3, byteOf w 2, byteOf w 1, byteOf w 0]

/-- R14: the bytes `PutLE32` writes, lowest index first. -/
def le32Bytes (w : Word) : List Byte := [byteOf w 0, byteOf w 1, byteOf w 2, byteOf w 3]

/-- R15: `V.lane[l] = V[32l+31:32l]`. -/
def lane (v : VReg) (l : Nat) : Word := v.extractLsb' (32 * l) 32

/-- The register whose lane l is `f l`, lane 0 least significant (R15). -/
def ofLanes (f : Nat → Word) : VReg := f 7 ++ f 6 ++ f 5 ++ f 4 ++ f 3 ++ f 2 ++ f 1 ++ f 0

/-- R15: the register all of whose lanes equal `w`. -/
def bcast8 (w : Word) : VReg := ofLanes fun _ => w

/-- R154: eight independent `add32`, no carry between lanes. -/
def vadd32 (a b : VReg) : VReg := ofLanes fun l => add32 (lane a l) (lane b l)

/-- R154: eight independent `xor32`. -/
def vxor (a b : VReg) : VReg := ofLanes fun l => xor32 (lane a l) (lane b l)

end Sys2Proof.Machine
end

