-- ==== Sys2Proof/Machine/Tables.lean ====
section
/-! DEFINITION. The S-box and the substitution-table bank (spec/40_sbox_tables.md R110 to R121). -/

namespace Sys2Proof.Machine

/-- R112: eight rows of sixteen four-bit values; row i substitutes nibble i, nibble 0 the least significant. -/
abbrev SBox := Vector (Vector Nibble 16) 8

/-- R10, R112: each row is a permutation of 0..15, that is, takes no value twice. -/
abbrev SBox.Permutes (s : SBox) : Prop :=
  ∀ (i : Fin 8) (v w : Fin 16), (s.get i).get v = (s.get i).get w → v = w

/-- The substitution set R112 supplies as the default, id-tc26-gost-28147-param-Z. PRESUMED, log 1: the spec itself marks it
as general knowledge. -/
def sboxTc26Z : SBox :=
  #v[ #v[12, 4, 6, 2, 10, 5, 11, 9, 14, 8, 13, 7, 0, 3, 15, 1],
      #v[6, 8, 2, 3, 9, 10, 5, 12, 1, 14, 4, 7, 11, 13, 0, 15],
      #v[11, 3, 5, 8, 2, 15, 10, 13, 14, 1, 7, 4, 12, 9, 6, 0],
      #v[12, 8, 2, 1, 13, 4, 15, 6, 7, 0, 10, 5, 3, 14, 9, 11],
      #v[7, 15, 5, 10, 8, 1, 6, 13, 0, 9, 3, 14, 11, 4, 2, 12],
      #v[5, 13, 15, 6, 9, 2, 12, 10, 11, 7, 8, 1, 4, 3, 14, 0],
      #v[8, 14, 2, 5, 6, 9, 1, 12, 15, 4, 11, 0, 13, 10, 3, 7],
      #v[1, 7, 14, 13, 0, 5, 8, 3, 4, 15, 10, 6, 9, 12, 11, 2] ]

/-- The substitute of a nibble in row i. -/
def sboxAt (s : SBox) (i : Fin 8) (v : Nibble) : Nibble := (s.get i).get v.toFin

/-- R113: the nibble-wise substitution of a word, row i for nibble i. PRESUMED, log 2: the spec marks the numbering of the rows
as general knowledge. -/
def sub32 (s : SBox) (w : Word) : Word :=
  sboxAt s 7 (nibbleOf w 7) ++ sboxAt s 6 (nibbleOf w 6) ++ sboxAt s 5 (nibbleOf w 5) ++ sboxAt s 4 (nibbleOf w 4) ++
    sboxAt s 3 (nibbleOf w 3) ++ sboxAt s 2 (nibbleOf w 2) ++ sboxAt s 1 (nibbleOf w 1) ++ sboxAt s 0 (nibbleOf w 0)

/-- R114: `SUBBYTE(p, b) = SBOX[2p+1][b[7:4]] || SBOX[2p][b[3:0]]`, the S-box at byte granularity. -/
def subByte (s : SBox) (p : Fin 4) (b : Byte) : Byte :=
  sboxAt s ⟨2 * p.val + 1, by omega⟩ (b.extractLsb' 4 4) ++ sboxAt s ⟨2 * p.val, by omega⟩ (b.extractLsb' 0 4)

/-- The fixed rotation (R9 ROT, 90_conflicts.md C3), to the left. PRESUMED, log 2: the spec marks the direction as general
knowledge. -/
def rotAmount : Nat := 11

/-- R111: table `Tj` serves byte position p = 3 - j. -/
def tablePosition (j : Fin 4) : Fin 4 := ⟨3 - j.val, by omega⟩

/-- R115: `T[j][b] = rotl32(zext_32(SUBBYTE(p, b)) << (8 * p), 11)` with p = 3 - j. -/
def tableEntry (s : SBox) (j : Fin 4) (b : Byte) : Word :=
  rotl32 ((subByte s (tablePosition j) b).setWidth 32 <<< (8 * (tablePosition j).val)) rotAmount

/-- R21: four tables of 256 words. -/
abbrev TableBank := Vector (Vector Word 256) 4

/-- One table: entry b at index b, b = 0..255. -/
def buildTable (s : SBox) (j : Fin 4) : Vector Word 256 :=
  ⟨((List.range 256).map fun b => tableEntry s j (BitVec.ofNat 8 b)).toArray, by simp⟩

/-- R120: the builder, `buildTables : SBOX -> T` by R115. -/
def buildTables (s : SBox) : TableBank := #v[buildTable s 0, buildTable s 1, buildTable s 2, buildTable s 3]

/-- R119: `TLOOKUP(j, b)` returns `T[j][b]`; every index is in range. -/
def tlookup (t : TableBank) (j : Fin 4) (b : Byte) : Word := (t.get j).get b.toFin

/-- The S-box this instance is configured with, from which the bank is built before reset is released (R10, R120): the
default of R112. PRESUMED, log 1. -/
def configuredSBox : SBox := sboxTc26Z

end Sys2Proof.Machine
end

