-- ==== Sys2Proof/Machine/State.lean ====
section
/-! DEFINITION. The state of one magma-boost CORE instance (spec/10_state.md R20), the host events that drive it
(70_reset_and_hazards.md R293), the reasons a step can stop, and the state after reset (10_state.md R38). -/

namespace Sys2Proof.Machine

/-- One event of a run (R293): the reset event, a host read or a host write, by register-window offset (R16, R61, R62). -/
inductive HostEvent where
  /-- The reset event (R280). -/
  | reset
  /-- An 8-bit host read. -/
  | read8 (offset : Nat)
  /-- A 32-bit host read. -/
  | read32 (offset : Nat)
  /-- An 8-bit host write. -/
  | write8 (offset : Nat) (v : Byte)
  /-- A 32-bit host write; at offset 0 it is a command (R80). -/
  | write32 (offset : Nat) (v : Word)
deriving DecidableEq, Repr

/-- A value a host read returned (R293). -/
inductive Reading where
  | byte (v : Byte)
  | word (v : Word)
deriving DecidableEq, Repr

/-- The three synchronous faults of 60_exceptions.md R251, taken as a next state, and no others (93 U9).
DESIGN CHOICE, log 9. -/
inductive EngineFault where
  /-- Code 1, R253. -/
  | illegalCommand
  /-- Code 2, R254. -/
  | sizeMismatch
  /-- Code 3, R255. -/
  | noSchedule
deriving DecidableEq, Repr

/-- The working registers of R25, R27 and R29, transient: a command that uses them sets them before it reads them, and
between commands their contents are unspecified (R26, log 5). -/
structure Work where
  n1 : Word
  n2 : Word
  tmp : Word
  rc : BitVec 6
  va : VReg
  vb : VReg
  vn1 : VReg
  vn2 : VReg
  vtmp : VReg
deriving DecidableEq, Repr

/-- The state tuple of R20, and after it the model's own fields. -/
structure State where
  /-- `T`, the table bank: constant storage that no step changes (R21, R37). -/
  tables : TableBank
  /-- `RK[0..31]`, the scalar schedule (R22). -/
  rk : Vector Word 32
  /-- `KSV` (R22). -/
  ksv : Bool
  /-- `VRK[0..31]`, the vector schedule (R23). -/
  vrk : Vector VReg 32
  /-- `VKSV` (R23). -/
  vksv : Bool
  /-- The written bytes of `KEYIN`, `DIN`, `DOUT` (R34), by window offset (R60). -/
  mem : Memory
  /-- `ERR`, the sticky fault code (R31). -/
  err : BitVec 4
  /-- `ERRCMD`, the command word that raised the fault (R33). -/
  errcmd : Word
  /-- The transient working registers (R25 to R29). -/
  work : Work
  /-- The model's own: host events not yet taken, oldest first (DESIGN CHOICE, log 6). -/
  pending : List HostEvent
  /-- The model's own: the values the host's reads returned, oldest first (R293; DESIGN CHOICE,
  log 7). -/
  observed : List Reading
  /-- The model's own: how many reset events have happened; it picks the unspecified contents after each (log 3, log 4). -/
  epoch : Nat
  /-- The model's own: how many times the working registers were left unspecified; it picks their free contents (log 5). -/
  draws : Nat
  /-- The model's own: which instance of the platform this is (60_exceptions.md R270, log 13). It picks the instance's BASE and
  its free contents, and no step changes it. -/
  unit : Nat
deriving DecidableEq, Repr

/-- A stop of the machine. No command raises one: the engine's own faults are next states (R256). -/
inductive Fault where
  /-- Raised by a host access at an offset outside the 8192 bytes of the register window, an address the spec gives this
  hardware nothing at (R60). Safe: the run stops, nothing is claimed of it. DESIGN CHOICE, log 10. -/
  | outsideWindow
deriving DecidableEq, Repr

/-- A move the model has no meaning for. -/
inductive Refusal where
  /-- Raised by exec's arm for an instruction that has no meaning yet; no arm uses it. Safe. -/
  | notModelled (mnemonic : String)
  /-- Raised by an 8-bit access to a word region or a gap and by a 32-bit access to a byte region: "the model gives them no
  meaning (refuse)" (R58). Safe. -/
  | wrongWidth
  /-- Raised by a 32-bit access at an offset that is not a multiple of 4 (R58). Safe. -/
  | misaligned
deriving DecidableEq, Repr

/-- Unspecified working registers (R26): free values of the instance, picked by the draw number. -/
def unspecifiedWork (unit draw : Nat) : Work :=
  { n1 := Config.unspecifiedScalar unit draw 0
    n2 := Config.unspecifiedScalar unit draw 1
    tmp := Config.unspecifiedScalar unit draw 2
    rc := Config.unspecifiedCounter unit draw
    va := Config.unspecifiedVector unit draw 0
    vb := Config.unspecifiedVector unit draw 1
    vn1 := Config.unspecifiedVector unit draw 2
    vn2 := Config.unspecifiedVector unit draw 3
    vtmp := Config.unspecifiedVector unit draw 4 }

/-- R38, R280: what the reset event leaves in an instance whose bank is `t`: the flags, ERR and ERRCMD at 0, the banks, buffers
and working registers unspecified, nothing waiting and nothing observed. -/
def State.afterReset (t : TableBank) (unit epoch draw : Nat) : State :=
  { tables := t
    rk := Vector.ofFn fun r => Config.unspecifiedRoundKey unit epoch r.val
    ksv := false
    vrk := Vector.ofFn fun r => Config.unspecifiedVectorRoundKey unit epoch r.val
    vksv := false
    mem := []
    err := 0#4
    errcmd := 0#32
    work := unspecifiedWork unit draw
    pending := []
    observed := []
    epoch := epoch
    draws := draw
    unit := unit }

/-- Instance number `unit` right after its own reset (R38, R280, 60_exceptions.md R270), with the table bank of the configured
S-box, "the same contents in all of them". -/
def State.resetOf (unit : Nat) : State := State.afterReset (buildTables configuredSBox) unit 0 0

/-- The machine right after reset: the one instance of a platform that has one, number 0 (log 13). -/
def State.reset : State := State.resetOf 0

end Sys2Proof.Machine
end

