-- ==== Sys2Proof/Machine/Flags.lean ====
section
/-! DEFINITION. The flag-like state KSV, VKSV, ERR and the words that show it (spec/10_state.md R28 to R33,
60_exceptions.md R251). There are no arithmetic flags. -/

namespace Sys2Proof.Machine

/-- The code a fault writes to ERR (60_exceptions.md R251). -/
def EngineFault.code : EngineFault → BitVec 4
  | .illegalCommand => 1#4
  | .sizeMismatch => 2#4
  | .noSchedule => 3#4

/-- The halted condition: `ERR != 0` (60_exceptions.md R258). -/
def State.halted (s : State) : Bool := s.err != 0#4

/-- One flag as one bit. -/
def flagBit (b : Bool) : BitVec 1 := BitVec.ofBool b

/-- STATUS as a host reads it (R31): bit 0 KSV, bit 1 VKSV, bits 7:4 ERR, every other bit 0. DEDUCED, log 15. -/
def State.status (s : State) : Word := 0#24 ++ s.err ++ 0#2 ++ flagBit s.vksv ++ flagBit s.ksv

/-- The schedule a command needs is there (30_encoding.md R80): ENC1 needs KSV, ENC8 needs VKSV, the others nothing. -/
def State.hasSchedule (s : State) : Instr → Bool
  | .setkey _ => true
  | .setkeyv _ => true
  | .enc1 _ => s.ksv
  | .enc8 _ => s.vksv
  | .rndfn _ => true
  | .vrndfn _ => true

end Sys2Proof.Machine
end

