-- ==== Sys2Proof/Machine/Operands.lean ====
section
/-! DEFINITION. The implicit operands of the commands: the three byte buffers and the words read from and written to them at
constant offsets (spec/10_state.md R34, 20_memory.md R51 to R54, R73, 30_encoding.md R83). -/

namespace Sys2Proof.Machine

/-- The byte buffers of R34. -/
inductive Buffer where
  | keyin
  | din
  | dout
deriving DecidableEq, Repr

/-- The window offset of a buffer's byte 0 (20_memory.md R60). -/
def Buffer.base : Buffer → Nat
  | .keyin => 0x20
  | .din => 0x40
  | .dout => 0x80

/-- The number of bytes of a buffer (R34). -/
def Buffer.size : Buffer → Nat
  | .keyin => 32
  | .din => 64
  | .dout => 64

/-- The byte at a window offset of a byte region: what was last written there, and while nothing has been written since
reset an unspecified value, "the same on every read until the location is written" (20_memory.md R61). -/
def State.byteAt (s : State) (a : Nat) : Byte := (s.mem.lookup a).getD (Config.unwrittenByte s.unit s.epoch a)

/-- `KEYIN[i]`, `DIN[i]`, `DOUT[i]` (R34, 20_memory.md R60). -/
def State.buf (s : State) (b : Buffer) (i : Nat) : Byte := s.byteAt (b.base + i)

/-- `K[i] = BE32(KEYIN, 4i)` (20_memory.md R52). -/
def State.keyWord (s : State) (i : Nat) : Word := be32 (s.buf .keyin) (4 * i)

/-- `BE32(DIN, o)` (20_memory.md R51). -/
def State.dinWord (s : State) (o : Nat) : Word := be32 (s.buf .din) o

/-- The word a schedule entry is read from, `RK[i]`, the index taken in 0..31. -/
def roundKeyAt (rk : Vector Word 32) (rc : BitVec 6) : Word := rk.get (Fin.ofNat 32 rc.toNat)

/-- The register a vector schedule entry is read from, `VRK[i]`, the index taken in 0..31. -/
def vectorRoundKeyAt (vrk : Vector VReg 32) (rc : BitVec 6) : VReg := vrk.get (Fin.ofNat 32 rc.toNat)

end Sys2Proof.Machine
end

