-- ==== Sys2Proof/Machine/Ops.lean ====
section
/-! DEFINITION. The named operations over the state: byte stores, the schedule banks, taking a fault and recovering from one,
the checks in front of every command, the reset event, the end of a command. -/

namespace Sys2Proof.Machine

/-- Store bytes at ascending window offsets. -/
def State.store (s : State) (a : Nat) (bs : List Byte) : State := { s with mem := s.mem.writeBytes a bs }

/-- Store bytes into a buffer from index `o` on. -/
def State.storeBuf (s : State) (b : Buffer) (o : Nat) (bs : List Byte) : State := s.store (b.base + o) bs

/-- `PutBE32(DOUT, o, w)` (00_scope.md R14). -/
def State.putDout (s : State) (o : Nat) (w : Word) : State := s.storeBuf .dout o (be32Bytes w)

/-- FAULT ENTRY (60_exceptions.md R256): `ERR <- c; ERRCMD <- w` and nothing else. -/
def State.raise (s : State) (f : EngineFault) (w : Word) : State := { s with err := f.code, errcmd := w }

/-- RECOVERY, the counterpart of a trap return (60_exceptions.md R259, 10_state.md R32): `ERR <- 0; ERRCMD <- 0`. -/
def State.clearFault (s : State) : State := { s with err := 0#4, errcmd := 0#32 }

/-- A CTRL write (10_state.md R32): bit 0, CLRERR, clears the fault; bits 31:1 are ignored. -/
def State.writeCtrl (s : State) (v : Word) : State := if v.getLsbD 0 then s.clearFault else s

/-- Fill the scalar bank and set KSV (43_key_schedule.md R172). -/
def State.setScalarSchedule (s : State) (k : Vector Word 32) : State := { s with rk := k, ksv := true }

/-- Fill the vector bank and set VKSV (43_key_schedule.md R173). -/
def State.setVectorSchedule (s : State) (k : Vector VReg 32) : State := { s with vrk := k, vksv := true }

/-- The end of a command that used the working registers: between commands "their contents are unspecified" (10_state.md
R26). Free values, log 5. -/
def State.releaseWork (s : State) : State := { s with work := unspecifiedWork s.unit (s.draws + 1), draws := s.draws + 1 }

/-- A host read returns a value (70_reset_and_hazards.md R293). -/
def State.observe (s : State) (r : Reading) : State := { s with observed := s.observed ++ [r] }

/-- Take the host events still waiting to be `rest`. -/
def State.withPending (s : State) (rest : List HostEvent) : State := { s with pending := rest }

/-- THE RESET EVENT (70_reset_and_hazards.md R280, R283): everything but `T` is lost; the contents of the banks and buffers
are unspecified anew. The host's events still waiting and what it has read are the host's and stay (DEDUCED, log 12). -/
def State.resetEvent (s : State) : State :=
  { State.afterReset s.tables s.unit (s.epoch + 1) (s.draws + 1) with pending := s.pending, observed := s.observed }

/-- THE CHECKS in front of a command that decodes (30_encoding.md R80, 60_exceptions.md R252): halted, then size, then
schedule; the first that fails decides; a command that passes them all runs. -/
def runChecked (i : Instr) (body : State → State) (s : State) : State :=
  if s.halted then s
  else if i.len ≠ i.reqLen then s.raise .sizeMismatch (encode i)
  else if !s.hasSchedule i then s.raise .noSchedule (encode i)
  else body s

/-- A CMD write of a word that is no command (60_exceptions.md R253): ignored while halted, else IllegalCommand. -/
def illegalWrite (w : Word) (s : State) : State := if s.halted then s else s.raise .illegalCommand w

end Sys2Proof.Machine
end

