-- ==== Sys2Proof/Machine/Shuffle.lean ====
section
/-! DEFINITION. Vector load, byte-order correction, de-interleave, interleave, store (spec/45_shuffle.md R211 to R217). -/

namespace Sys2Proof.Machine

/-- `VLOAD(B, o)` (R211): little-endian lanes, the byte at the lowest index the least significant of lane 0. -/
def vload (b : Nat → Byte) (o : Nat) : VReg := ofLanes fun l => le32 b (o + 4 * l)

/-- `VBSWAP32(V)` (R212): the same byte reversal in every lane. -/
def vbswap32 (v : VReg) : VReg := ofLanes fun l => bswap32 (lane v l)

/-- Word n of the block set held in two registers: `A` words 0..7, `B` words 8..15 (R213). -/
def blockSetWord (a b : VReg) (n : Nat) : Word := if n < 8 then lane a n else lane b (n - 8)

/-- `VDEINT(A, B)` (R213): the even words and the odd words. -/
def vdeint (a b : VReg) : VReg × VReg :=
  (ofLanes fun i => blockSetWord a b (2 * i), ofLanes fun i => blockSetWord a b (2 * i + 1))

/-- Word n of the interleaving of two registers (R214): `W[2i] = P.lane[i]`, `W[2i+1] = Q.lane[i]`. -/
def interleavedWord (p q : VReg) (n : Nat) : Word := if n % 2 = 0 then lane p (n / 2) else lane q (n / 2)

/-- `VINT(P, Q)` (R214). -/
def vint (p q : VReg) : VReg × VReg :=
  (ofLanes fun n => interleavedWord p q n, ofLanes fun n => interleavedWord p q (n + 8))

/-- `VCOPY` (R215): all 256 bits. -/
def vcopy (v : VReg) : VReg := v

/-- The bytes `VSTORE(B, o, V)` writes, lowest index first: byte m is `V[8m+7:8m]` (R216). -/
def vstoreBytes (v : VReg) : List Byte := (List.range 32).map fun m => v.extractLsb' (8 * m) 8

end Sys2Proof.Machine
end

