-- ==== Sys2Proof/Machine/Round.lean ====
section
/-! DEFINITION. The scalar and the vector round function and the commands RNDFN and VRNDFN (spec/41_round_scalar.md,
spec/42_round_vector.md). -/

namespace Sys2Proof.Machine

/-- `F(x, k)` (R131): add, look each byte up in its table, xor. No rotation of its own (R133). -/
def roundF (t : TableBank) (x k : Word) : Word :=
  let y := add32 x k
  xor32 (xor32 (xor32 (tlookup t 0 (byteOf y 3)) (tlookup t 1 (byteOf y 2))) (tlookup t 2 (byteOf y 1)))
    (tlookup t 3 (byteOf y 0))

/-- `VGATHER(j, Y)` (R153): each lane looks its own byte 3 - j up in table j. -/
def vgather (t : TableBank) (j : Fin 4) (y : VReg) : VReg := ofLanes fun l => tlookup t j (byteOf (lane y l) (3 - j.val))

/-- `F8(X, K)` (R151). -/
def roundF8 (t : TableBank) (x k : VReg) : VReg :=
  let y := vadd32 x k
  vxor (vxor (vgather t 0 y) (vgather t 1 y)) (vxor (vgather t 2 y) (vgather t 3 y))

/-- RNDFN after its checks (R136). -/
def rndfnBody (s : State) : State := s.putDout 0 (roundF s.tables (s.dinWord 0) (s.dinWord 4))

/-- RNDFN (R136). -/
def execRndfn (len : Nat) (s : State) : Host.Outcome State Fault Refusal := .next (runChecked (.rndfn len) rndfnBody s)

/-- The working registers after VRNDFN's computation (R157): VA the data lanes, VB the key lanes, VTMP the results. -/
def vrndfnWork (t : TableBank) (din : Nat → Byte) (w : Work) : Work :=
  let va := vbswap32 (vload din 0)
  let vb := vbswap32 (vload din 32)
  { w with va := va, vb := vb, vtmp := roundF8 t va vb }

/-- VRNDFN after its checks (R157). -/
def vrndfnBody (s : State) : State :=
  let w := vrndfnWork s.tables (s.buf .din) s.work
  ({ s with work := w }.storeBuf .dout 0 (vstoreBytes (vbswap32 w.vtmp))).releaseWork

/-- VRNDFN (R157). -/
def execVrndfn (len : Nat) (s : State) : Host.Outcome State Fault Refusal := .next (runChecked (.vrndfn len) vrndfnBody s)

end Sys2Proof.Machine
end

