-- ==== Sys2Proof/Machine/Feistel.lean ====
section
/-! DEFINITION. The scalar and the vector 32-round Feistel engines and the commands ENC1 and ENC8
(spec/44_feistel_scalar.md, spec/46_feistel_vector.md). The round function acts on N2, reading (B) of 90_conflicts.md C1. -/

namespace Sys2Proof.Machine

/-- `ROUND(N1, N2, k)` with `k = RK[RC]`, and `RC <- RC + 1` (R191, R192). -/
def scalarRound (t : TableBank) (rk : Vector Word 32) (w : Work) : Work :=
  let tmp := xor32 w.n1 (roundF t w.n2 (roundKeyAt rk w.rc))
  { w with tmp := tmp, n1 := w.n2, n2 := tmp, rc := w.rc + 1 }

/-- `LAST(N1, N2, k)` with `k = RK[RC]`, `RC = 31`, then `RC <- 32` (R191, R192): N2 unchanged, no exchange (R194). -/
def scalarLast (t : TableBank) (rk : Vector Word 32) (w : Work) : Work :=
  { w with n1 := xor32 w.n1 (roundF t w.n2 (roundKeyAt rk w.rc)), rc := w.rc + 1 }

/-- `n` executions of ROUND, a counted loop whatever the data (R193). -/
def scalarRounds (t : TableBank) (rk : Vector Word 32) : Nat → Work → Work
  | 0, w => w
  | n + 1, w => scalarRounds t rk n (scalarRound t rk w)

/-- The working registers through ENC1's computation (R192): split the block, 31 rounds, the last round. -/
def enc1Work (t : TableBank) (rk : Vector Word 32) (n1 n2 : Word) (w : Work) : Work :=
  scalarLast t rk (scalarRounds t rk 31 { w with n1 := n1, n2 := n2, rc := 0#6 })

/-- ENC1 after its checks (R192). -/
def enc1Body (s : State) : State :=
  let w := enc1Work s.tables s.rk (s.dinWord 0) (s.dinWord 4) s.work
  (({ s with work := w }.putDout 0 w.n1).putDout 4 w.n2).releaseWork

/-- ENC1 (R192). -/
def execEnc1 (len : Nat) (s : State) : Host.Outcome State Fault Refusal := .next (runChecked (.enc1 len) enc1Body s)

/-- `VROUND(VN1, VN2, VK)` with `VK = VRK[RC]`, and `RC <- RC + 1` (R231, R232). -/
def vectorRound (t : TableBank) (vrk : Vector VReg 32) (w : Work) : Work :=
  let vtmp := vxor w.vn1 (roundF8 t w.vn2 (vectorRoundKeyAt vrk w.rc))
  { w with vtmp := vtmp, vn1 := vcopy w.vn2, vn2 := vcopy vtmp, rc := w.rc + 1 }

/-- `VLAST(VN1, VN2, VK)` with `VK = VRK[RC]`, `RC = 31`, then `RC <- 32` (R231, R232). -/
def vectorLast (t : TableBank) (vrk : Vector VReg 32) (w : Work) : Work :=
  { w with vn1 := vxor w.vn1 (roundF8 t w.vn2 (vectorRoundKeyAt vrk w.rc)), rc := w.rc + 1 }

/-- `n` executions of VROUND, all lanes together (R233). -/
def vectorRounds (t : TableBank) (vrk : Vector VReg 32) : Nat → Work → Work
  | 0, w => w
  | n + 1, w => vectorRounds t vrk n (vectorRound t vrk w)

/-- The entry sequence LOAD8 (45_shuffle.md R217): load 512 bits, correct the byte order, de-interleave. -/
def load8 (din : Nat → Byte) (w : Work) : Work :=
  let va := vbswap32 (vload din 0)
  let vb := vbswap32 (vload din 32)
  let n := vdeint va vb
  { w with va := va, vb := vb, vn1 := n.1, vn2 := n.2 }

/-- The exit sequence STORE8 up to its two stores (45_shuffle.md R217): interleave, restore the byte order. -/
def unload8 (w : Work) : Work :=
  let ab := vint w.vn1 w.vn2
  { w with va := vbswap32 ab.1, vb := vbswap32 ab.2 }

/-- The stores of STORE8 (45_shuffle.md R217). -/
def State.store8 (s : State) (w : Work) : State :=
  ({ s with work := w }.storeBuf .dout 0 (vstoreBytes w.va)).storeBuf .dout 32 (vstoreBytes w.vb)

/-- The working registers through ENC8's computation (R232). -/
def enc8Work (t : TableBank) (vrk : Vector VReg 32) (din : Nat → Byte) (w : Work) : Work :=
  unload8 (vectorLast t vrk (vectorRounds t vrk 31 { load8 din w with rc := 0#6 }))

/-- ENC8 after its checks (R232). -/
def enc8Body (s : State) : State := (s.store8 (enc8Work s.tables s.vrk (s.buf .din) s.work)).releaseWork

/-- ENC8 (R232). -/
def execEnc8 (len : Nat) (s : State) : Host.Outcome State Fault Refusal := .next (runChecked (.enc8 len) enc8Body s)

end Sys2Proof.Machine
end

