-- ==== Sys2Proof/Machine/KeySchedule.lean ====
section
/-! DEFINITION. The key expansion and the commands SETKEY and SETKEYV (spec/43_key_schedule.md). -/

namespace Sys2Proof.Machine

/-- The key word a round index uses (R171): 0..7 three times ascending, then 7..0. -/
def keyIndex (r : Nat) : Nat := if r < 24 then r % 8 else 31 - r

/-- `KEXPAND(K)` (R171). -/
def kexpand (k : Nat → Word) : Vector Word 32 := Vector.ofFn fun r => k (keyIndex r.val)

/-- SETKEY after its checks (R172). -/
def setkeyBody (s : State) : State := s.setScalarSchedule (kexpand s.keyWord)

/-- SETKEY (R172). -/
def execSetkey (len : Nat) (s : State) : Host.Outcome State Fault Refusal := .next (runChecked (.setkey len) setkeyBody s)

/-- The vector form of the expansion (R170, R173): every word of the schedule in all eight lanes. -/
def kexpand8 (k : Nat → Word) : Vector VReg 32 := Vector.ofFn fun r => bcast8 ((kexpand k).get r)

/-- SETKEYV after its checks (R173). -/
def setkeyvBody (s : State) : State := s.setVectorSchedule (kexpand8 s.keyWord)

/-- SETKEYV (R173). -/
def execSetkeyv (len : Nat) (s : State) : Host.Outcome State Fault Refusal := .next (runChecked (.setkeyv len) setkeyvBody s)

end Sys2Proof.Machine
end

