-- ==== Sys2Proof/Machine/Dispatch.lean ====
section
/-! DEFINITION. The dispatch of a decoded command to its meaning (spec/30_encoding.md R82). -/

namespace Sys2Proof.Machine

def exec (i : Instr) (s : State) : Host.Outcome State Fault Refusal :=
  match i with
  | .setkey len => Sys2Proof.Machine.execSetkey len s
  | .setkeyv len => Sys2Proof.Machine.execSetkeyv len s
  | .enc1 len => Sys2Proof.Machine.execEnc1 len s
  | .enc8 len => Sys2Proof.Machine.execEnc8 len s
  | .rndfn len => Sys2Proof.Machine.execRndfn len s
  | .vrndfn len => Sys2Proof.Machine.execVrndfn len s

end Sys2Proof.Machine
end

