-- ==== Sys2Proof/Machine/Window.lean ====
section
/-! DEFINITION. The register window and the host's accesses to it (spec/20_memory.md R57 to R64, 30_encoding.md R80). -/

namespace Sys2Proof.Machine

/-- What lies at an offset of the window (R60). -/
inductive Region where
  | cmd
  | status
  | ctrl
  | errcmd
  /-- `KEYIN[i]`, `DIN[i]` or `DOUT[i]`. -/
  | byte (b : Buffer) (i : Nat)
  | rkwin (r : Fin 32)
  | vrkwin (r : Fin 32) (l : Fin 8)
  | tblwin (j : Fin 4) (b : Fin 256)
  /-- "reads 0, writes ignored". -/
  | gap
deriving DecidableEq, Repr

/-- The size of the window in bytes (R60). -/
def windowSize : Nat := 0x2000

/-- The map of R60 below 0x20: the four word registers and a gap. -/
def registerRegion (off : Nat) : Region :=
  if off < 0x4 then .cmd
  else if off < 0x8 then .status
  else if off < 0xC then .ctrl
  else if off < 0x10 then .errcmd
  else .gap

/-- The map of R60 from 0x20 to 0xFF: the three byte buffers and a gap. -/
def bufferRegion (off : Nat) : Region :=
  if off < 0x40 then .byte .keyin (off - 0x20)
  else if off < 0x80 then .byte .din (off - 0x40)
  else if off < 0xC0 then .byte .dout (off - 0x80)
  else .gap

/-- The map of R60 from 0x100 to 0xFFF: `RK[r]` at 0x0100 + 4r, `VRK[r].lane[l]` at 0x0400 + 32r + 4l, and gaps. -/
def bankRegion (off : Nat) : Region :=
  if off < 0x180 then .rkwin (Fin.ofNat 32 ((off - 0x100) / 4))
  else if off < 0x400 then .gap
  else if off < 0x800 then .vrkwin (Fin.ofNat 32 ((off - 0x400) / 32)) (Fin.ofNat 8 ((off - 0x400) % 32 / 4))
  else .gap

/-- The map of R60 from 0x1000 to 0x1FFF: `T[j][b]` at 0x1000 + 1024j + 4b. -/
def tableRegion (off : Nat) : Region :=
  .tblwin (Fin.ofNat 4 ((off - 0x1000) / 1024)) (Fin.ofNat 256 ((off - 0x1000) % 1024 / 4))

/-- The map of R60; `none` outside the window. -/
def regionOf (off : Nat) : Option Region :=
  if off < 0x20 then some (registerRegion off)
  else if off < 0x100 then some (bufferRegion off)
  else if off < 0x1000 then some (bankRegion off)
  else if off < windowSize then some (tableRegion off)
  else none

/-- The window offset of a platform address, `none` where the address is not in this instance's window (R60). DESIGN CHOICE,
log 11. -/
def State.windowOffset (s : State) (addr : Nat) : Option Nat :=
  if Config.base s.unit ≤ addr ∧ addr < Config.base s.unit + windowSize then some (addr - Config.base s.unit) else none

/-- The word a 32-bit read of a region returns (R61), `none` for a byte region, which takes no 32-bit access (R58). -/
def State.readWord (s : State) : Region → Option Word
  | .cmd => some 0#32
  | .status => some s.status
  | .ctrl => some 0#32
  | .errcmd => some s.errcmd
  | .byte _ _ => none
  | .rkwin r => some (s.rk.get r)
  | .vrkwin r l => some (lane (s.vrk.get r) l.val)
  | .tblwin j b => some (tlookup s.tables j (BitVec.ofFin b))
  | .gap => some 0#32

/-- A write to CMD (30_encoding.md R80): the word is decoded and runs, or faults, or is ignored while halted. -/
def writeCmd (w : Word) (s : State) : Host.Outcome State Fault Refusal :=
  match decode w with
  | .command i => exec i s
  | .rejected _ => .next (illegalWrite w s)

/-- An 8-bit host read (R58, R61): byte regions only. -/
def hostRead8 (off : Nat) (s : State) : Host.Outcome State Fault Refusal :=
  match regionOf off with
  | none => .fault .outsideWindow
  | some (.byte b i) => .next (s.observe (.byte (s.buf b i)))
  | some _ => .refused .wrongWidth

/-- A 32-bit host read (R58, R61): aligned, word regions and gaps only. -/
def hostRead32 (off : Nat) (s : State) : Host.Outcome State Fault Refusal :=
  match regionOf off with
  | none => .fault .outsideWindow
  | some r =>
    match s.readWord r with
    | none => .refused .wrongWidth
    | some v => if off % 4 = 0 then .next (s.observe (.word v)) else .refused .misaligned

/-- An 8-bit host write (R58, R62): KEYIN and DIN take it, DOUT ignores it. -/
def hostWrite8 (off : Nat) (v : Byte) (s : State) : Host.Outcome State Fault Refusal :=
  match regionOf off with
  | none => .fault .outsideWindow
  | some (.byte .dout _) => .next s
  | some (.byte b i) => .next (s.storeBuf b i [v])
  | some _ => .refused .wrongWidth

/-- A 32-bit write to a word region or a gap (R62): CMD starts a command, CTRL may clear the fault, everything else
ignores it. -/
def writeWord (r : Region) (v : Word) (s : State) : Host.Outcome State Fault Refusal :=
  match r with
  | .cmd => writeCmd v s
  | .ctrl => .next (s.writeCtrl v)
  | .status => .next s
  | .errcmd => .next s
  | .byte _ _ => .refused .wrongWidth
  | .rkwin _ => .next s
  | .vrkwin _ _ => .next s
  | .tblwin _ _ => .next s
  | .gap => .next s

/-- A 32-bit host write (R58, R62): aligned, word regions and gaps only. -/
def hostWrite32 (off : Nat) (v : Word) (s : State) : Host.Outcome State Fault Refusal :=
  match regionOf off with
  | none => .fault .outsideWindow
  | some (.byte _ _) => .refused .wrongWidth
  | some r => if off % 4 = 0 then writeWord r v s else .refused .misaligned

/-- One event of a run (70_reset_and_hazards.md R293), performed whole (R66). -/
def performEvent (e : HostEvent) (s : State) : Host.Outcome State Fault Refusal :=
  match e with
  | .reset => .next s.resetEvent
  | .read8 off => hostRead8 off s
  | .read32 off => hostRead32 off s
  | .write8 off v => hostWrite8 off v s
  | .write32 off v => hostWrite32 off v s

/-- Take the oldest waiting event; with none waiting the engine is idle (60_exceptions.md R269).
DESIGN CHOICE, log 6. -/
def takeEvent (s : State) : Host.Outcome State Fault Refusal :=
  match s.pending with
  | [] => .next s
  | e :: rest => performEvent e (s.withPending rest)

end Sys2Proof.Machine
end

