-- ==== Sys2Proof/Machine/Step.lean ====
section
/-! DEFINITION. One step: the engine takes the oldest host event that is waiting and performs it whole
(spec/20_memory.md R66, 70_reset_and_hazards.md R293). -/

namespace Sys2Proof.Machine

def step (s : State) : Host.Outcome State Fault Refusal := takeEvent s

/-- The command word waiting as the very next host write to CMD (log 6): there is no fetch, "a command is the value written
to `CMD`" (spec/20_memory.md R70). -/
def State.withFetchWord (s : State) (nbits w : Nat) : State :=
  s.withPending (.write32 0 (BitVec.ofNat 32 (w % 2 ^ nbits)) :: s.pending)

end Sys2Proof.Machine
end

