-- ==== Sys2Proof/Machine/Platform.lean ====
section
/-! DEFINITION. A platform of several instances (spec/60_exceptions.md R270): "the product of N copies of the one-instance
model with independent host streams", "each with its own `BASE`, and each with its own complete state". Its own BASE and its
own unspecified contents are those of its number `State.unit`. DESIGN CHOICE, log 13. -/

namespace Sys2Proof.Machine

/-- The instances of a platform, each with its complete state. -/
abbrev Platform := List State

/-- N instances, each right after "its own reset" (R270): number k at place k. -/
def Platform.reset (n : Nat) : Platform := (List.range n).map State.resetOf

/-- Instance `k` takes a step; no other instance is touched (R270). A platform without instance `k` stays as it is. -/
def platformStep (k : Nat) (p : Platform) : Host.Outcome Platform Fault Refusal :=
  match p[k]? with
  | none => .next p
  | some s =>
    match step s with
    | .next t => .next (p.set k t)
    | .fault r => .fault r
    | .refused r => .refused r

end Sys2Proof.Machine
end

