-- ==== Sys2Proof/Machine/Script.lean ====
section
/-! DEFINITION. The host script of spec/30_encoding.md R88 and R89: what each line stands for, as host events. The text form
of a line is notation only; a line is given here by its parts (DESIGN CHOICE, log 16). -/

namespace Sys2Proof.Machine

/-- One line of R88. A `wr` names KEYIN or DIN; a `cmd` gives the mnemonic and `len=<n>` as a command. -/
inductive ScriptLine where
  /-- `reset`. -/
  | reset
  /-- `wr KEYIN+<o> <bytes>`. -/
  | wrKeyin (o : Nat) (bytes : List Byte)
  /-- `wr DIN+<o> <bytes>`. -/
  | wrDin (o : Nat) (bytes : List Byte)
  /-- `cmd.raw <word>`. -/
  | cmdRaw (w : Word)
  /-- `cmd <MNEMONIC> len=<n>`. -/
  | cmd (i : Instr)
  /-- `ctrl <word>`. -/
  | ctrl (w : Word)
  /-- `rd DOUT+<o> <n>`. -/
  | rdDout (o n : Nat)
  /-- `rd STATUS`. -/
  | rdStatus
  /-- `rd ERRCMD`. -/
  | rdErrcmd
  /-- `rd RKWIN <r>`. -/
  | rdRkwin (r : Fin 32)
  /-- `rd VRKWIN <r> <l>`. -/
  | rdVrkwin (r : Fin 32) (l : Fin 8)
  /-- `rd TBLWIN <j> <b>`. -/
  | rdTblwin (j : Fin 4) (b : Fin 256)
deriving DecidableEq, Repr

/-- The word of a line `cmd <MNEMONIC> len=<n>`: `OPC(MNEMONIC) | (n << 8)` (R88). An n above 255 reaches RSV, so that the word
is illegal and no other command. DESIGN CHOICE, log 17: the spec does not bound n, and bits of `n << 8` from bit 32 on are no part
of a 32-bit word and fall off. -/
def cmdLineWord (i : Instr) : Word := i.opc.setWidth 32 ||| (BitVec.ofNat 32 i.len <<< 8)

/-- Byte writes at ascending offsets. -/
def byteWrites : Nat → List Byte → List HostEvent
  | _, [] => []
  | off, v :: vs => .write8 off v :: byteWrites (off + 1) vs

/-- Byte reads at ascending offsets. -/
def byteReads (off n : Nat) : List HostEvent := (List.range n).map fun i => .read8 (off + i)

/-- The host accesses a line stands for (R88), at the offsets of 20_memory.md R60. DESIGN CHOICE, log 17: the spec is silent on a
`wr` or `rd` line that runs past the last index of its buffer (`KEYIN[32]`, `DIN[64]`, `DOUT[64]`); here it goes on at the next
window offsets, so that a write past KEYIN reaches DIN, a write past DIN is ignored by DOUT, and an access past DOUT is refused. -/
def ScriptLine.events : ScriptLine → List HostEvent
  | .reset => [.reset]
  | .wrKeyin o bs => byteWrites (Buffer.keyin.base + o) bs
  | .wrDin o bs => byteWrites (Buffer.din.base + o) bs
  | .cmdRaw w => [.write32 0x0 w]
  | .cmd i => [.write32 0x0 (cmdLineWord i)]
  | .ctrl w => [.write32 0x8 w]
  | .rdDout o n => byteReads (Buffer.dout.base + o) n
  | .rdStatus => [.read32 0x4]
  | .rdErrcmd => [.read32 0xC]
  | .rdRkwin r => [.read32 (0x100 + 4 * r.val)]
  | .rdVrkwin r l => [.read32 (0x400 + 32 * r.val + 4 * l.val)]
  | .rdTblwin j b => [.read32 (0x1000 + 1024 * j.val + 4 * b.val)]

/-- A pseudo-instruction of R89. -/
inductive Pseudo where
  | cmdSetkey
  | cmdSetkeyv
  | cmdEnc1
  | cmdEnc8
  | cmdRndfn
  | cmdVrndfn
  | clrerr
  /-- `set_key <32 bytes>`. -/
  | setKey (key : Vector Byte 32)
  /-- `set_key_vector <32 bytes>`. -/
  | setKeyVector (key : Vector Byte 32)
  /-- `encrypt_block <8 bytes>`. -/
  | encryptBlock (block : Vector Byte 8)
  /-- `encrypt_8_blocks <64 bytes>`. -/
  | encrypt8Blocks (blocks : Vector Byte 64)
  /-- `round_fn <4 bytes> <4 bytes>`. -/
  | roundFn (word key : Vector Byte 4)
deriving DecidableEq, Repr

/-- Its expansion (R89). -/
def Pseudo.expand : Pseudo → List ScriptLine
  | .cmdSetkey => [.cmd (.setkey 32)]
  | .cmdSetkeyv => [.cmd (.setkeyv 32)]
  | .cmdEnc1 => [.cmd (.enc1 8)]
  | .cmdEnc8 => [.cmd (.enc8 64)]
  | .cmdRndfn => [.cmd (.rndfn 8)]
  | .cmdVrndfn => [.cmd (.vrndfn 64)]
  | .clrerr => [.ctrl 0x00000001#32]
  | .setKey k => [.wrKeyin 0 k.toList, .cmd (.setkey 32)]
  | .setKeyVector k => [.wrKeyin 0 k.toList, .cmd (.setkeyv 32)]
  | .encryptBlock b => [.wrDin 0 b.toList, .cmd (.enc1 8), .rdDout 0 8]
  | .encrypt8Blocks b => [.wrDin 0 b.toList, .cmd (.enc8 64), .rdDout 0 64]
  | .roundFn x k => [.wrDin 0 x.toList, .wrDin 4 k.toList, .cmd (.rndfn 8), .rdDout 0 4]

/-- The host accesses of a script. -/
def scriptEvents (lines : List ScriptLine) : List HostEvent := lines.flatMap ScriptLine.events

end Sys2Proof.Machine
end

