-- ==== Sys2Proof/Safety.lean ====
section
/-! DEFINITION. What a run is, what it shows and when it ends clean (spec/70_reset_and_hazards.md R293), which host accesses
the interface admits (20_memory.md R58), and the invariant of reachable states. -/

namespace Sys2Proof.Machine

/-- The byte regions KEYIN, DIN and DOUT of the window (20_memory.md R60). -/
def inBuffers (a : Nat) : Prop := 0x20 ≤ a ∧ a < 0xC0

/-- The events R58 admits: 8-bit accesses to byte regions, 32-bit accesses at multiples of 4 to the rest of the window, and
the reset event. -/
def HostEvent.Admitted : HostEvent → Prop
  | .reset => True
  | .read8 off => inBuffers off
  | .read32 off => off < 0x2000 ∧ off % 4 = 0 ∧ ¬ inBuffers off
  | .write8 off _ => inBuffers off
  | .write32 off _ => off < 0x2000 ∧ off % 4 = 0 ∧ ¬ inBuffers off

/-- Perform the waiting events, at most `n` of them, stopping at a fault or refusal. -/
def runSteps : Nat → State → Host.Outcome State Fault Refusal
  | 0, s => .next s
  | n + 1, s =>
    match step s with
    | .next t => runSteps n t
    | .fault r => .fault r
    | .refused r => .refused r

/-- A run of the host's events from a state (R293). -/
def runEvents (es : List HostEvent) (s : State) : Host.Outcome State Fault Refusal :=
  runSteps es.length (s.withPending es)

/-- "A run ends clean when `ERR = 0` after its last event" (R293). -/
def State.endsClean (s : State) : Prop := s.pending = [] ∧ s.err = 0#4

/-- A run ends halted when `ERR` is not 0 after its last event (R293). -/
def State.endsHalted (s : State) : Prop := s.pending = [] ∧ s.err ≠ 0#4

/-- A safe run: every event is one the interface admits and the run ends clean. -/
def SafeRun (es : List HostEvent) (s : State) : Prop :=
  (∀ e ∈ es, e.Admitted) ∧ ∃ t, runEvents es s = .next t ∧ t.endsClean

/-- What holds of every reachable state of an instance configured with `sbox`. -/
structure State.Inv (sbox : SBox) (s : State) : Prop where
  /-- The bank holds the values of 40_sbox_tables.md R115 "for ever". -/
  tables : ∀ (j : Fin 4) (b : Byte), tlookup s.tables j b = tableEntry sbox j b
  /-- The written bytes are listed once each, in rising order. -/
  memory : s.mem.wf
  /-- Only bytes of the buffers are ever written. -/
  buffers : ∀ c ∈ s.mem, inBuffers c.1
  /-- ERR codes 4 to 15 are "never written by the hardware" (60_exceptions.md R251). -/
  errCode : s.err.toNat ≤ 3
  /-- ERRCMD is 0 when ERR is 0 (10_state.md R33). -/
  errcmd : s.err = 0#4 → s.errcmd = 0#32
  /-- 10_state.md R24, scalar bank. -/
  scalar : s.ksv = true →
    ∃ k : Nat → Word, ∀ r : Fin 32, s.rk.get r = if r.val < 24 then k (r.val % 8) else k (31 - r.val)
  /-- 10_state.md R24, vector bank: every lane of every register. -/
  vector : s.vksv = true →
    ∃ k : Nat → Word, ∀ (r : Fin 32) (l : Fin 8),
      lane (s.vrk.get r) l.val = if r.val < 24 then k (r.val % 8) else k (31 - r.val)

end Sys2Proof.Machine
end

