-- ==== Sys2Proof/Certificates/Slice0/Obligations.lean ====
section
/-! DEFINITION. The statements for the provers. First the words they use: a reference reading of the cipher and of the key
order that shares nothing with the engine's loops, and the frames. Then one definition per statement.
A host access is stated as a step of `offer s e`, the event in front of those waiting, and a value read as one more entry of
`observed`: the two lists are the model's own way to write accesses and observations (DESIGN CHOICE, logs 6 and 7). -/

namespace Sys2Proof.Machine.Ref

/-- `(N1, N2)` after r executions of ROUND with round keys k 0, k 1, … (44_feistel_scalar.md R191). -/
def pairAfter (f : Word → Word → Word) (k : Nat → Word) (p : Word × Word) : Nat → Word × Word
  | 0 => p
  | r + 1 => ((pairAfter f k p r).2, (pairAfter f k p r).1 ^^^ f (pairAfter f k p r).2 (k r))

/-- 31 times ROUND, then LAST, which changes N1 only (44_feistel_scalar.md R192). -/
def encipher (f : Word → Word → Word) (k : Nat → Word) (p : Word × Word) : Word × Word :=
  ((pairAfter f k p 31).1 ^^^ f (pairAfter f k p 31).2 (k 31), (pairAfter f k p 31).2)

/-- The round function as 41_round_scalar.md R130 words it: add modulo 2^32, one lookup per byte, the most significant byte
in T0, xor. -/
def fourLookups (t : TableBank) (x k : Word) : Word :=
  (t.get 0).get ((x + k).extractLsb' 24 8).toFin ^^^ (t.get 1).get ((x + k).extractLsb' 16 8).toFin ^^^
    (t.get 2).get ((x + k).extractLsb' 8 8).toFin ^^^ (t.get 3).get ((x + k).extractLsb' 0 8).toFin

/-- The key-word index of each round index, the table of 43_key_schedule.md R171. -/
def keyOrder : List Nat :=
  [0, 1, 2, 3, 4, 5, 6, 7, 0, 1, 2, 3, 4, 5, 6, 7, 0, 1, 2, 3, 4, 5, 6, 7, 7, 6, 5, 4, 3, 2, 1, 0]

/-- The round key of index r in the scalar bank. -/
def scalarKey (s : State) (r : Nat) : Word := s.rk.get (Fin.ofNat 32 r)

/-- The round key of index r in lane l of the vector bank. -/
def laneKey (s : State) (l r : Nat) : Word := lane (s.vrk.get (Fin.ofNat 32 r)) l

/-- Block i of DIN as its two halves, big-endian (20_memory.md R51). -/
def dinBlock (s : State) (i : Nat) : Word × Word := (be32 (s.buf .din) (8 * i), be32 (s.buf .din) (8 * i + 4))

/-- DOUT holds the word at index o, big-endian. -/
def DoutHolds (t : State) (o : Nat) (w : Word) : Prop := ∀ p, p < 4 → t.buf .dout (o + p) = w.extractLsb' (8 * (3 - p)) 8

/-- Every byte of the window's byte regions outside the first n bytes of DOUT reads as before. -/
def DoutOnly (s t : State) (n : Nat) : Prop :=
  ∀ a, ¬ (Buffer.dout.base ≤ a ∧ a < Buffer.dout.base + n) → t.byteAt a = s.byteAt a

/-- Everything but the buffer bytes and the transient working registers is as before. -/
structure Kept (s t : State) : Prop where
  tables : t.tables = s.tables
  rk : t.rk = s.rk
  ksv : t.ksv = s.ksv
  vrk : t.vrk = s.vrk
  vksv : t.vksv = s.vksv
  err : t.err = s.err
  errcmd : t.errcmd = s.errcmd
  pending : t.pending = s.pending
  observed : t.observed = s.observed
  epoch : t.epoch = s.epoch
  unit : t.unit = s.unit

/-- The state with one host event in front of those waiting. -/
def offer (s : State) (e : HostEvent) : State := { s with pending := e :: s.pending }

/-- The next step performs the event, returns v to the host and changes nothing else. -/
def Returns (s : State) (e : HostEvent) (v : Reading) : Prop :=
  step (offer s e) = .next { s with observed := s.observed ++ [v] }

/-- The next step takes the event and changes nothing. -/
def Ignored (s : State) (e : HostEvent) : Prop := step (offer s e) = .next s

/-- What stands in front of one of the six commands (30_encoding.md R80): its words with RSV = 0 decode to it and with RSV
not 0 raise IllegalCommand; halted it is ignored; with a wrong LEN it raises SizeMismatch. -/
def ChecksFirst (mk : Nat → Instr) (opc : Byte) (req : Nat) : Prop :=
  (∀ w : Word, opcField w = opc → rsvField w = 0#16 → decode w = .command (mk (lenField w).toNat)) ∧
  (∀ (s : State) (w : Word), s.err = 0#4 → opcField w = opc → rsvField w ≠ 0#16 →
    step (offer s (.write32 0x0 w)) = .next { s with err := 1#4, errcmd := w }) ∧
  (∀ (s : State) (n : Nat), s.err ≠ 0#4 → exec (mk n) s = .next s) ∧
  (∀ (s : State) (n : Nat), s.err = 0#4 → n < 256 → n ≠ req →
    exec (mk n) s = .next { s with err := 2#4, errcmd := encode (mk n) })

/-- The events that return a value to the host (70_reset_and_hazards.md R293). -/
def isRead : HostEvent → Bool
  | .reset => false
  | .read8 _ => true
  | .read32 _ => true
  | .write8 _ _ => false
  | .write32 _ _ => false

/-- The unmapped offsets of 20_memory.md R60. -/
def Unmapped (off : Nat) : Prop :=
  (0x10 ≤ off ∧ off < 0x20) ∨ (0xC0 ≤ off ∧ off < 0x100) ∨ (0x180 ≤ off ∧ off < 0x400) ∨ (0x800 ≤ off ∧ off < 0x1000)

/-- The required LEN of an operation code (30_encoding.md R84). -/
def requiredLen (opc : Byte) : Nat := if opc = 1#8 ∨ opc = 2#8 then 32 else if opc = 3#8 ∨ opc = 5#8 then 8 else 64

/-- The bytes of DOUT a command writes (10_state.md R34). -/
def resultBytes : Instr → Nat
  | .setkey _ => 0
  | .setkeyv _ => 0
  | .enc1 _ => 8
  | .enc8 _ => 64
  | .rndfn _ => 4
  | .vrndfn _ => 32

/-- Two states agree on all that a command reads besides the flags (10_state.md R36, R39). -/
def SameInputs (s s' : State) : Instr → Prop
  | .setkey _ => ∀ j, j < 32 → s'.buf .keyin j = s.buf .keyin j
  | .setkeyv _ => ∀ j, j < 32 → s'.buf .keyin j = s.buf .keyin j
  | .enc1 _ => s'.tables = s.tables ∧ s'.rk = s.rk ∧ ∀ j, j < 8 → s'.buf .din j = s.buf .din j
  | .enc8 _ => s'.tables = s.tables ∧ s'.vrk = s.vrk ∧ ∀ j, j < 64 → s'.buf .din j = s.buf .din j
  | .rndfn _ => s'.tables = s.tables ∧ ∀ j, j < 8 → s'.buf .din j = s.buf .din j
  | .vrndfn _ => s'.tables = s.tables ∧ ∀ j, j < 64 → s'.buf .din j = s.buf .din j

end Sys2Proof.Machine.Ref

open Sys2Proof Sys2Proof.Machine Sys2Proof.Machine.Ref

/-! ### Encoding -/

/-- The decoder accepts exactly the encodings of well-formed commands, and reads each as the command it encodes. -/
def Obligations.DecodeAcceptsExactlyTheEncodings : Prop :=
  ∀ (w : Word) (i : Instr), decode w = .command i ↔ i.WellFormed ∧ encode i = w

/-- 30_encoding.md section 5: the decoder written from the table alone is the decoder; no two rows select one word. -/
def Obligations.TableDecoderAgreesWithDecoder : Prop :=
  (∀ (w : Word) (i : Instr) (n : Nat), decodeByTable w = some (i, n) ↔ decode w = .command i ∧ n = i.reqLen) ∧
  (∀ w : Word, decodeByTable w = none ↔ ∃ e, decode w = .rejected e) ∧
  (∀ w : Word, commandTable.Pairwise fun r q => r.selects w = true → q.selects w = false)

/-- The six complete command words of 30_encoding.md R82 decode to their commands. -/
def Obligations.SixCommandWordsDecode : Prop :=
  decode 0x00002001#32 = .command (.setkey 32) ∧ decode 0x00002002#32 = .command (.setkeyv 32) ∧
  decode 0x00000803#32 = .command (.enc1 8) ∧ decode 0x00004004#32 = .command (.enc8 64) ∧
  decode 0x00000805#32 = .command (.rndfn 8) ∧ decode 0x00004006#32 = .command (.vrndfn 64)

/-- 30_encoding.md R85: every word outside the six commands is illegal and raises IllegalCommand; a word with a legal OPC,
RSV = 0 and a wrong LEN raises SizeMismatch instead; every other word is one of the six commands with its required LEN. -/
def Obligations.UnassignedWordsRaiseIllegalCommand : Prop :=
  (∀ (s : State) (w : Word), s.err = 0#4 → (rsvField w ≠ 0#16 ∨ opcField w = 0#8 ∨ 7 ≤ (opcField w).toNat) →
    step (offer s (.write32 0x0 w)) = .next { s with err := 1#4, errcmd := w }) ∧
  (∀ (s : State) (w : Word), s.err = 0#4 → rsvField w = 0#16 → 1 ≤ (opcField w).toNat → (opcField w).toNat ≤ 6 →
    (lenField w).toNat ≠ requiredLen (opcField w) →
    step (offer s (.write32 0x0 w)) = .next { s with err := 2#4, errcmd := w }) ∧
  (∀ w : Word, (rsvField w ≠ 0#16 ∨ opcField w = 0#8 ∨ 7 ≤ (opcField w).toNat) ∨
    (lenField w).toNat ≠ requiredLen (opcField w) ∨
    w ∈ [0x00002001#32, 0x00002002#32, 0x00000803#32, 0x00004004#32, 0x00000805#32, 0x00004006#32]) ∧
  (∀ s : State, s.err = 0#4 → step (offer s (.write32 0x0 0x00000000#32)) = .next { s with err := 1#4, errcmd := 0x00000000#32 }) ∧
  (∀ s : State, s.err = 0#4 → step (offer s (.write32 0x0 0xffffffff#32)) = .next { s with err := 1#4, errcmd := 0xffffffff#32 })

/-! ### One step -/

/-- A host write of a word that decodes runs the command it decodes to, on the state with the event taken. -/
def Obligations.StepRunsTheDecodedCommand : Prop :=
  ∀ (s : State) (w : Word) (rest : List HostEvent) (i : Instr), s.pending = .write32 0x0 w :: rest → decode w = .command i →
    step s = exec i { s with pending := rest }

/-- With no host event waiting the engine is idle and keeps its state (60_exceptions.md section 6). That an idle step is a step
is the model's choice, log 6. -/
def Obligations.IdleEngineKeepsItsState : Prop := ∀ s : State, s.pending = [] → step s = .next s

/-- 30_encoding.md R80: what a CMD write does, check by check, the first that fails deciding. -/
def Obligations.CommandWriteChecksDecideInOrder : Prop :=
  ∀ (s : State) (w : Word), step (offer s (.write32 0x0 w)) =
    if s.err ≠ 0#4 then .next s
    else if rsvField w ≠ 0#16 ∨ opcField w ∉ [0x01#8, 0x02#8, 0x03#8, 0x04#8, 0x05#8, 0x06#8] then
      .next { s with err := 1#4, errcmd := w }
    else if (lenField w).toNat ≠ requiredLen (opcField w) then .next { s with err := 2#4, errcmd := w }
    else if (opcField w = 0x03#8 ∧ s.ksv = false) ∨ (opcField w = 0x04#8 ∧ s.vksv = false) then
      .next { s with err := 3#4, errcmd := w }
    else if opcField w = 0x01#8 then .next (setkeyBody s)
    else if opcField w = 0x02#8 then .next (setkeyvBody s)
    else if opcField w = 0x03#8 then .next (enc1Body s)
    else if opcField w = 0x04#8 then .next (enc8Body s)
    else if opcField w = 0x05#8 then .next (rndfnBody s)
    else .next (vrndfnBody s)

/-- Every CMD write is answered with a next state, whatever the word and the state, and takes exactly its own event. -/
def Obligations.EveryCommandWriteCompletes : Prop :=
  ∀ (s : State) (w : Word) (rest : List HostEvent), s.pending = .write32 0x0 w :: rest →
    ∃ t, step s = .next t ∧ t.pending = rest ∧ t.observed = s.observed

/-! ### The six commands -/

/-- 43_key_schedule.md R172. -/
def Obligations.SetkeyBuildsTheScalarSchedule : Prop :=
  encode (.setkey 32) = 0x00002001#32 ∧ ChecksFirst .setkey 0x01#8 32 ∧
  ∀ s : State, s.err = 0#4 → ∃ t, exec (.setkey 32) s = .next t ∧
    (∀ r : Fin 32, t.rk.get r = be32 (s.buf .keyin) (4 * keyOrder.getD r.val 0)) ∧ t.ksv = true ∧
    t = { s with rk := t.rk, ksv := t.ksv }

/-- 43_key_schedule.md R173. -/
def Obligations.SetkeyvBuildsTheVectorSchedule : Prop :=
  encode (.setkeyv 32) = 0x00002002#32 ∧ ChecksFirst .setkeyv 0x02#8 32 ∧
  ∀ s : State, s.err = 0#4 → ∃ t, exec (.setkeyv 32) s = .next t ∧
    (∀ (r : Fin 32) (l : Fin 8), lane (t.vrk.get r) l.val = be32 (s.buf .keyin) (4 * keyOrder.getD r.val 0)) ∧
    t.vksv = true ∧ t = { s with vrk := t.vrk, vksv := t.vksv }

/-- 41_round_scalar.md R136. -/
def Obligations.RndfnWritesTheRoundFunctionOfDin : Prop :=
  encode (.rndfn 8) = 0x00000805#32 ∧ ChecksFirst .rndfn 0x05#8 8 ∧
  ∀ s : State, s.err = 0#4 → ∃ t, exec (.rndfn 8) s = .next t ∧
    DoutHolds t 0 (fourLookups s.tables (be32 (s.buf .din) 0) (be32 (s.buf .din) 4)) ∧
    DoutOnly s t 4 ∧ Kept s t ∧ t.work = s.work ∧ t.draws = s.draws

/-- 42_round_vector.md R157. -/
def Obligations.VrndfnWritesEightRoundFunctionsOfDin : Prop :=
  encode (.vrndfn 64) = 0x00004006#32 ∧ ChecksFirst .vrndfn 0x06#8 64 ∧
  ∀ s : State, s.err = 0#4 → ∃ t, exec (.vrndfn 64) s = .next t ∧
    (∀ l, l < 8 →
      DoutHolds t (4 * l) (fourLookups s.tables (be32 (s.buf .din) (4 * l)) (be32 (s.buf .din) (32 + 4 * l)))) ∧
    DoutOnly s t 32 ∧ Kept s t

/-- 44_feistel_scalar.md R192. -/
def Obligations.Enc1EnciphersOneBlock : Prop :=
  encode (.enc1 8) = 0x00000803#32 ∧ ChecksFirst .enc1 0x03#8 8 ∧
  (∀ s : State, s.err = 0#4 → s.ksv = false → exec (.enc1 8) s = .next { s with err := 3#4, errcmd := 0x00000803#32 }) ∧
  ∀ s : State, s.err = 0#4 → s.ksv = true → ∃ t, exec (.enc1 8) s = .next t ∧
    DoutHolds t 0 (encipher (fourLookups s.tables) (scalarKey s) (dinBlock s 0)).1 ∧
    DoutHolds t 4 (encipher (fourLookups s.tables) (scalarKey s) (dinBlock s 0)).2 ∧
    DoutOnly s t 8 ∧ Kept s t

/-- 46_feistel_vector.md R232. -/
def Obligations.Enc8EnciphersEightBlocksLaneByLane : Prop :=
  encode (.enc8 64) = 0x00004004#32 ∧ ChecksFirst .enc8 0x04#8 64 ∧
  (∀ s : State, s.err = 0#4 → s.vksv = false → exec (.enc8 64) s = .next { s with err := 3#4, errcmd := 0x00004004#32 }) ∧
  ∀ s : State, s.err = 0#4 → s.vksv = true → ∃ t, exec (.enc8 64) s = .next t ∧
    (∀ i, i < 8 →
      DoutHolds t (8 * i) (encipher (fourLookups s.tables) (laneKey s i) (dinBlock s i)).1 ∧
      DoutHolds t (8 * i + 4) (encipher (fourLookups s.tables) (laneKey s i) (dinBlock s i)).2) ∧
    DoutOnly s t 64 ∧ Kept s t

/-! ### Faults -/

/-- 60_exceptions.md R253: IllegalCommand looks at RSV and OPC and never at LEN. -/
def Obligations.IllegalCommandIgnoresLen : Prop :=
  ∀ (s : State) (w : Word), s.err = 0#4 →
    ((∃ t, step (offer s (.write32 0x0 w)) = .next t ∧ t.err = 1#4) ↔
      (rsvField w ≠ 0#16 ∨ opcField w = 0#8 ∨ 7 ≤ (opcField w).toNat))

/-- 60_exceptions.md R254: a word raises SizeMismatch exactly when it selects a command and its LEN, larger or smaller, is not
the required length; and so does the decoded command. -/
def Obligations.WrongLengthRaisesSizeMismatch : Prop :=
  (∀ (s : State) (w : Word), s.err = 0#4 →
    ((∃ t, step (offer s (.write32 0x0 w)) = .next t ∧ t.err = 2#4) ↔
      rsvField w = 0#16 ∧ 1 ≤ (opcField w).toNat ∧ (opcField w).toNat ≤ 6 ∧
        (lenField w).toNat ≠ requiredLen (opcField w))) ∧
  ∀ (s : State) (i : Instr), i.WellFormed → s.err = 0#4 → i.len ≠ requiredLen i.opc →
    exec i s = .next { s with err := 2#4, errcmd := encode i }

/-- 60_exceptions.md R255: ENC1 needs the scalar schedule and ENC8 the vector one; nothing else raises NoSchedule. -/
def Obligations.NoScheduleRaisedByTheEncryptorsOnly : Prop :=
  (∀ s : State, s.err = 0#4 → s.ksv = false → exec (.enc1 8) s = .next { s with err := 3#4, errcmd := 0x00000803#32 }) ∧
  (∀ s : State, s.err = 0#4 → s.vksv = false → exec (.enc8 64) s = .next { s with err := 3#4, errcmd := 0x00004004#32 }) ∧
  (∀ (i : Instr) (s t : State), s.err = 0#4 → exec i s = .next t → t.err = 3#4 →
    (i = .enc1 8 ∧ s.ksv = false) ∨ (i = .enc8 64 ∧ s.vksv = false))

/-- 60_exceptions.md R256: a CMD write that changes ERR changes ERR and ERRCMD and nothing else. -/
def Obligations.FaultEntryWritesErrAndErrcmdOnly : Prop :=
  ∀ (s t : State) (w : Word), step (offer s (.write32 0x0 w)) = .next t → t.err ≠ s.err →
    t = { s with err := t.err, errcmd := w } ∧ (t.err = 1#4 ∨ t.err = 2#4 ∨ t.err = 3#4)

/-- 60_exceptions.md R258: while ERR is not 0 every CMD write is ignored; reads, KEYIN and DIN writes and CTRL writes work. -/
def Obligations.HaltedEngineIgnoresCommandsOnly : Prop :=
  ∀ s : State, s.err ≠ 0#4 →
    (∀ w : Word, Ignored s (.write32 0x0 w)) ∧
    (∀ off, (HostEvent.read8 off).Admitted → Returns s (.read8 off) (.byte (s.byteAt off))) ∧
    (∀ off, (HostEvent.read32 off).Admitted → ∃ v, Returns s (.read32 off) (.word v) ∧
      (off ≠ 0x4 → off ≠ 0xC → Returns { s with err := 0#4, errcmd := 0#32 } (.read32 off) (.word v))) ∧
    (∀ i v, i < 32 → ∃ t, step (offer s (.write8 (0x20 + i) v)) = .next t ∧ t = { s with mem := t.mem } ∧
      t.buf .keyin i = v ∧ ∀ a, a ≠ 0x20 + i → t.byteAt a = s.byteAt a) ∧
    (∀ i v, i < 64 → ∃ t, step (offer s (.write8 (0x40 + i) v)) = .next t ∧ t = { s with mem := t.mem } ∧
      t.buf .din i = v ∧ ∀ a, a ≠ 0x40 + i → t.byteAt a = s.byteAt a) ∧
    (∀ v : Word, v.getLsbD 0 = false → Ignored s (.write32 0x8 v)) ∧
    (∀ v : Word, v.getLsbD 0 = true → step (offer s (.write32 0x8 v)) = .next { s with err := 0#4, errcmd := 0#32 })

/-- 10_state.md R32: a CTRL write with bit 0 set clears ERR and ERRCMD and changes nothing else, in every state; with bit 0
clear it does nothing; a read returns 0. -/
def Obligations.CtrlWriteClearsTheFault : Prop :=
  ∀ s : State,
    (∀ v : Word, v.getLsbD 0 = true → step (offer s (.write32 0x8 v)) = .next { s with err := 0#4, errcmd := 0#32 }) ∧
    (∀ v : Word, v.getLsbD 0 = false → Ignored s (.write32 0x8 v)) ∧ Returns s (.read32 0x8) (.word 0#32)

/-- The flags move only as the table of 10_state.md section 6 lists: KSV and VKSV are set by their commands and cleared by
reset; ERR is set by a CMD write while it is 0 and cleared by reset or CTRL bit 0. -/
def Obligations.FlagsChangeOnlyAsListed : Prop :=
  ∀ s t : State, step s = .next t →
    (s.ksv = false → t.ksv = true → ∃ rest, s.pending = .write32 0x0 0x00002001#32 :: rest ∧ s.err = 0#4) ∧
    (s.ksv = true → t.ksv = false → ∃ rest, s.pending = .reset :: rest) ∧
    (s.vksv = false → t.vksv = true → ∃ rest, s.pending = .write32 0x0 0x00002002#32 :: rest ∧ s.err = 0#4) ∧
    (s.vksv = true → t.vksv = false → ∃ rest, s.pending = .reset :: rest) ∧
    (s.err = 0#4 → t.err ≠ 0#4 → ∃ w rest, s.pending = .write32 0x0 w :: rest ∧ t.errcmd = w) ∧
    (s.err ≠ 0#4 → t.err ≠ s.err →
      t.err = 0#4 ∧ ∃ rest, s.pending = .reset :: rest ∨ ∃ off v, s.pending = .write32 off v :: rest ∧ off = 0x8 ∧ v.getLsbD 0 = true)

/-! ### The register window -/

/-- 10_state.md R31: STATUS shows KSV in bit 0, VKSV in bit 1, ERR in bits 7:4 and 0 everywhere else; writes are ignored;
it reads 0 right after reset. -/
def Obligations.StatusShowsTheFlags : Prop :=
  Returns State.reset (.read32 0x4) (.word 0#32) ∧
  ∀ s : State, ∃ v : Word, Returns s (.read32 0x4) (.word v) ∧ v.getLsbD 0 = s.ksv ∧ v.getLsbD 1 = s.vksv ∧
    v.extractLsb' 2 2 = 0#2 ∧ v.extractLsb' 4 4 = s.err ∧ v.extractLsb' 8 24 = 0#24 ∧
    ∀ w : Word, Ignored s (.write32 0x4 w)

/-- 20_memory.md R61: what a host read returns at every offset of the window, changing nothing but what the host has seen. -/
def Obligations.HostReadReturnsTheAddressedValue : Prop :=
  ∀ s : State,
    (∀ i, i < 32 → Returns s (.read8 (0x20 + i)) (.byte (s.buf .keyin i))) ∧
    (∀ i, i < 64 → Returns s (.read8 (0x40 + i)) (.byte (s.buf .din i))) ∧
    (∀ i, i < 64 → Returns s (.read8 (0x80 + i)) (.byte (s.buf .dout i))) ∧
    Returns s (.read32 0x4) (.word s.status) ∧ Returns s (.read32 0xC) (.word s.errcmd) ∧
    (∀ r : Fin 32, Returns s (.read32 (0x100 + 4 * r.val)) (.word (s.rk.get r))) ∧
    (∀ (r : Fin 32) (l : Fin 8), Returns s (.read32 (0x400 + 32 * r.val + 4 * l.val)) (.word (lane (s.vrk.get r) l.val))) ∧
    (∀ (j : Fin 4) (b : Fin 256), Returns s (.read32 (0x1000 + 1024 * j.val + 4 * b.val)) (.word ((s.tables.get j).get b))) ∧
    Returns s (.read32 0x0) (.word 0#32) ∧ Returns s (.read32 0x8) (.word 0#32) ∧
    (∀ off, Unmapped off → off % 4 = 0 → Returns s (.read32 off) (.word 0#32))

/-- 20_memory.md R62: what a host write does at every offset of the window. -/
def Obligations.HostWriteFollowsTheMap : Prop :=
  ∀ s : State,
    (∀ i v, i < 32 → ∃ t, step (offer s (.write8 (0x20 + i) v)) = .next t ∧ t = { s with mem := t.mem } ∧
      t.buf .keyin i = v ∧ ∀ a, a ≠ 0x20 + i → t.byteAt a = s.byteAt a) ∧
    (∀ i v, i < 64 → ∃ t, step (offer s (.write8 (0x40 + i) v)) = .next t ∧ t = { s with mem := t.mem } ∧
      t.buf .din i = v ∧ ∀ a, a ≠ 0x40 + i → t.byteAt a = s.byteAt a) ∧
    (∀ w : Word, step (offer s (.write32 0x0 w)) = writeCmd w s) ∧
    (∀ v : Word, step (offer s (.write32 0x8 v)) = .next (if v.getLsbD 0 then { s with err := 0#4, errcmd := 0#32 } else s)) ∧
    (∀ i v, i < 64 → Ignored s (.write8 (0x80 + i) v)) ∧
    (∀ off v, (HostEvent.write32 off v).Admitted → off ≠ 0x0 → off ≠ 0x8 → Ignored s (.write32 off v))

/-- 20_memory.md R58: the accesses of the interface are answered, and every other access has no meaning. -/
def Obligations.ExactlyTheAdmittedAccessesAreAnswered : Prop :=
  ∀ (s : State) (e : HostEvent), e.Admitted ↔ ∃ t, step (offer s e) = .next t

/-- The model's choice of log 10: an offset past the window is the fault outsideWindow, every other inadmissible access a
refusal. -/
def Obligations.AccessPastTheWindowFaults : Prop :=
  ∀ (s : State) (off : Nat) (v : Byte) (w : Word), 0x2000 ≤ off →
    step (offer s (.read8 off)) = .fault .outsideWindow ∧ step (offer s (.read32 off)) = .fault .outsideWindow ∧
    step (offer s (.write8 off v)) = .fault .outsideWindow ∧ step (offer s (.write32 off w)) = .fault .outsideWindow

/-- The model's choice of log 11: a platform address of an instance's window is that instance's own BASE plus the offset, BASE is a
multiple of 4 and no other address belongs to the window. -/
def Obligations.WindowAddressesAreBasePlusOffset : Prop :=
  ∀ s : State, Config.base s.unit % 4 = 0 ∧ (∀ off, off < 0x2000 → s.windowOffset (Config.base s.unit + off) = some off) ∧
    (∀ addr off, s.windowOffset addr = some off → off < 0x2000 ∧ addr = Config.base s.unit + off)

/-! ### What may change what -/

/-- 10_state.md R21: the table bank is never mutated, by no event and no command. -/
def Obligations.TableBankNeverChanges : Prop := ∀ s t : State, step s = .next t → t.tables = s.tables

/-- 43_key_schedule.md section 3: only SETKEY writes the scalar bank and only SETKEYV the vector bank (and the reset event
leaves both unspecified). -/
def Obligations.BanksWrittenByTheirCommandsOnly : Prop :=
  ∀ s t : State, step s = .next t →
    (t.rk ≠ s.rk → ∃ rest, s.pending = .reset :: rest ∨ s.pending = .write32 0x0 0x00002001#32 :: rest) ∧
    (t.vrk ≠ s.vrk → ∃ rest, s.pending = .reset :: rest ∨ s.pending = .write32 0x0 0x00002002#32 :: rest)

/-- 10_state.md section 9: KEYIN and DIN are written by the host only, DOUT by the four commands that list it, and each writes
exactly its own bytes. -/
def Obligations.BuffersWrittenByTheirOwnersOnly : Prop :=
  ∀ s t : State, step s = .next t →
    (∀ i, i < 32 → t.buf .keyin i ≠ s.buf .keyin i →
      ∃ rest, s.pending = .reset :: rest ∨ ∃ v, s.pending = .write8 (0x20 + i) v :: rest) ∧
    (∀ i, i < 64 → t.buf .din i ≠ s.buf .din i →
      ∃ rest, s.pending = .reset :: rest ∨ ∃ v, s.pending = .write8 (0x40 + i) v :: rest) ∧
    (∀ i, i < 64 → t.buf .dout i ≠ s.buf .dout i →
      ∃ rest, s.pending = .reset :: rest ∨ ∃ w, s.pending = .write32 0x0 w :: rest ∧
        ((w = 0x00000803#32 ∧ i < 8) ∨ w = 0x00004004#32 ∨ (w = 0x00000805#32 ∧ i < 4) ∨ (w = 0x00004006#32 ∧ i < 32)))

/-- 10_state.md R36: the bytes a command writes and the schedules it builds depend on what it reads and on nothing else, the
working registers and the rest of the state included; the flags depend on the command and the flags alone. -/
def Obligations.CommandsHaveNoHiddenState : Prop :=
  ∀ (i : Instr) (s s' t t' : State), s'.err = s.err → s'.ksv = s.ksv → s'.vksv = s.vksv →
    exec i s = .next t → exec i s' = .next t' →
    (t'.err = t.err ∧ t'.ksv = t.ksv ∧ t'.vksv = t.vksv) ∧
    (SameInputs s s' i → t.err = 0#4 →
      (∀ j, j < resultBytes i → t'.buf .dout j = t.buf .dout j) ∧
      (∀ n, i = .setkey n → t'.rk = t.rk) ∧ (∀ n, i = .setkeyv n → t'.vrk = t.vrk))

/-! ### Reset and the invariant -/

/-- 10_state.md R38, the values the spec gives: the flags, ERR and ERRCMD are 0, STATUS reads 0 and the bank holds the table
entries (of the configured S-box, the default, log 1). -/
def Obligations.ResetStateHoldsTheStatedValues : Prop :=
  State.reset.ksv = false ∧ State.reset.vksv = false ∧ State.reset.err = 0#4 ∧ State.reset.errcmd = 0#32 ∧
  State.reset.status = 0#32 ∧ State.reset.mem.wf ∧
  ∀ (j : Fin 4) (b : Byte), tlookup State.reset.tables j b = tableEntry configuredSBox j b

/-- 70_reset_and_hazards.md R280: what the reset event leaves, from every state of an instance. That the host's waiting events
and the values it has read stay is the model's choice, log 12. -/
def Obligations.ResetEventClearsTheFlags : Prop :=
  ∀ (sbox : SBox) (s : State), (∀ (j : Fin 4) (b : Byte), tlookup s.tables j b = tableEntry sbox j b) →
    ∃ t, step (offer s .reset) = .next t ∧ t.ksv = false ∧ t.vksv = false ∧ t.err = 0#4 ∧ t.errcmd = 0#32 ∧
      (∀ (j : Fin 4) (b : Byte), tlookup t.tables j b = tableEntry sbox j b) ∧
      t.pending = s.pending ∧ t.observed = s.observed ∧ Returns t (.read32 0x4) (.word 0#32)

/-- The invariant of reachable states (table contents, canonical memory of buffer bytes only, ERR code at most 3, ERRCMD 0
with ERR 0, both schedules of the key-schedule form while valid) is kept by every step from every state that has it. -/
def Obligations.EveryStepKeepsTheInvariant : Prop :=
  ∀ (sbox : SBox) (s t : State), s.Inv sbox → step s = .next t → t.Inv sbox

/-- The invariant holds right after reset, for the configured S-box, the default (log 1). -/
def Obligations.ResetStateHasTheInvariant : Prop := State.reset.Inv configuredSBox

/-! ### Tables and round functions -/

/-- 40_sbox_tables.md R110: the source's table contract, for every S-box (the direction of the rotation is log 2). -/
def Obligations.TableLookupsComputeSubstitutionAndRotation : Prop :=
  ∀ (sbox : SBox) (b0 b1 b2 b3 : Byte),
    tlookup (buildTables sbox) 0 b0 ^^^ tlookup (buildTables sbox) 1 b1 ^^^ tlookup (buildTables sbox) 2 b2 ^^^
      tlookup (buildTables sbox) 3 b3 = (sub32 sbox (b0 ++ b1 ++ b2 ++ b3)).rotateLeft 11

/-- 40_sbox_tables.md section 3: the bits of every entry outside its table's field are 0. -/
def Obligations.TableEntriesKeepToTheirFields : Prop :=
  ∀ (sbox : SBox) (j : Fin 4) (b : Byte) (i : Nat), i < 32 → (∀ q, q < 8 → i ≠ (8 * (3 - j.val) + 11 + q) % 32) →
    (tlookup (buildTables sbox) j b).getLsbD i = false

/-- 40_sbox_tables.md sections 2 and 3: with permutation rows the word substitution and each table are injective. -/
def Obligations.SubstitutionAndTablesAreInjective : Prop :=
  ∀ sbox : SBox, sbox.Permutes →
    (∀ v w : Word, sub32 sbox v = sub32 sbox w → v = w) ∧
    (∀ (j : Fin 4) (b c : Byte), tlookup (buildTables sbox) j b = tlookup (buildTables sbox) j c → b = c)

/-- 41_round_scalar.md section 1: the closed form, the cipher's textbook round function. -/
def Obligations.RoundFunctionIsAddSubstituteRotate : Prop :=
  ∀ (sbox : SBox) (x k : Word), roundF (buildTables sbox) x k = (sub32 sbox (x + k)).rotateLeft 11

/-- 41_round_scalar.md section 2: F depends on its operands through their sum, and is a bijection in each for permutation
rows. -/
def Obligations.RoundFunctionIsBijectiveInEachOperand : Prop :=
  (∀ (t : TableBank) (x k : Word), roundF t x k = roundF t k x ∧ roundF t x k = roundF t (add32 x k) 0#32) ∧
  ∀ sbox : SBox, sbox.Permutes → ∀ k : Word,
    Function.Bijective (fun x => roundF (buildTables sbox) x k) ∧ Function.Bijective (fun x => roundF (buildTables sbox) k x)

/-- 42_round_vector.md R150: in every lane the vector round function is the scalar one, for all inputs. -/
def Obligations.VectorRoundFunctionIsScalarInEveryLane : Prop :=
  ∀ (t : TableBank) (x k : VReg) (l : Nat), l < 8 → lane (roundF8 t x k) l = roundF t (lane x l) (lane k l)

/-- 42_round_vector.md section 1: the broadcast property. -/
def Obligations.VectorRoundFunctionOfBroadcasts : Prop :=
  ∀ (t : TableBank) (x k : Word), roundF8 t (bcast8 x) (bcast8 k) = bcast8 (roundF t x k)

/-! ### Primitives and shuffles -/

/-- 00_scope.md section 5: the primitives, bit by bit and byte by byte. -/
def Obligations.PrimitivesFollowTheirBitDefinitions : Prop :=
  (∀ a b : Word, (add32 a b).toNat = (a.toNat + b.toNat) % 2 ^ 32) ∧
  (∀ (a : Word) (n i : Nat), 0 < n → n < 32 → i < 32 → (rotl32 a n).getLsbD ((i + n) % 32) = a.getLsbD i) ∧
  (∀ (w : Word) (p i : Nat), p < 4 → i < 8 → (byteOf w p).getLsbD i = w.getLsbD (8 * p + i)) ∧
  (∀ (w : Word) (p : Nat), p < 4 → byteOf (bswap32 w) p = byteOf w (3 - p)) ∧
  (∀ (b : Nat → Byte) (o p : Nat), p < 4 → byteOf (be32 b o) p = b (o + (3 - p))) ∧
  (∀ (b : Nat → Byte) (o : Nat), be32 b o = bswap32 (le32 b o)) ∧
  (∀ (f : Nat → Word) (l : Nat), l < 8 → lane (ofLanes f) l = f l)

/-- 45_shuffle.md R211 and R216: the vector load and store move bytes in order, and the store inverts the load. -/
def Obligations.VectorLoadAndStoreMoveBytesInOrder : Prop :=
  (∀ (b : Nat → Byte) (o m : Nat), m < 32 → (vload b o).extractLsb' (8 * m) 8 = b (o + m)) ∧
  (∀ (b : Nat → Byte) (o m : Nat), m < 32 → (vstoreBytes (vload b o))[m]? = some (b (o + m)))

/-- 45_shuffle.md R212 and R214: the byte reversal is an involution and the interleave and de-interleave are inverse. -/
def Obligations.ShufflesAreInverse : Prop :=
  (∀ v : VReg, vbswap32 (vbswap32 v) = v) ∧ (∀ a b : VReg, vint (vdeint a b).1 (vdeint a b).2 = (a, b)) ∧
  (∀ p q : VReg, vdeint (vint p q).1 (vint p q).2 = (p, q))

/-- 45_shuffle.md R210: the entry sequence reproduces, per block, the `(N1, N2)` split of the scalar path. -/
def Obligations.LoadSequenceSplitsBlocksLikeTheScalarPath : Prop :=
  ∀ (b : Nat → Byte) (w : Work) (i : Nat), i < 8 →
    lane (load8 b w).vn1 i = be32 b (8 * i) ∧ lane (load8 b w).vn2 i = be32 b (8 * i + 4)

/-- 45_shuffle.md section 3: storing straight after loading copies the 64 bytes, and nothing else changes. -/
def Obligations.LoadThenStoreCopiesTheBlocks : Prop :=
  ∀ (s : State) (w : Work), (∀ m, m < 64 → (s.store8 (unload8 (load8 (s.buf .din) w))).buf .dout m = s.buf .din m) ∧
    DoutOnly s (s.store8 (unload8 (load8 (s.buf .din) w))) 64

/-! ### The cipher -/

/-- 44_feistel_scalar.md section 3: the last round is the other rounds minus the exchange, so 31 rounds and the last are 32
uniform rounds and one exchange; RC ends at 32. -/
def Obligations.Enc1IsUniformRoundsAndOneExchange : Prop :=
  ∀ (t : TableBank) (rk : Vector Word 32) (n1 n2 : Word) (w : Work),
    let e := enc1Work t rk n1 n2 w
    let u := pairAfter (fourLookups t) (fun r => rk.get (Fin.ofNat 32 r)) (n1, n2) 32
    e.n1 = u.2 ∧ e.n2 = u.1 ∧ e.rc = 32#6

/-- 44_feistel_scalar.md section 4: for one schedule different blocks have different ciphertexts. -/
def Obligations.Enc1IsInjectiveOnBlocks : Prop :=
  ∀ s s' t t' : State, s.err = 0#4 → s'.err = 0#4 → s.ksv = true → s'.ksv = true → s'.tables = s.tables → s'.rk = s.rk →
    exec (.enc1 8) s = .next t → exec (.enc1 8) s' = .next t' →
    (∀ j, j < 8 → t'.buf .dout j = t.buf .dout j) → ∀ j, j < 8 → s'.buf .din j = s.buf .din j

/-- 43_key_schedule.md section 3: built from the same KEYIN the two banks hold the same keys, in whichever order. -/
def Obligations.BothSchedulesFromOneKeyAgree : Prop :=
  ∀ s : State, s.err = 0#4 →
    (∃ t u, exec (.setkey 32) s = .next t ∧ exec (.setkeyv 32) t = .next u ∧
      u.ksv = true ∧ u.vksv = true ∧ ∀ (r : Fin 32) (l : Fin 8), lane (u.vrk.get r) l.val = u.rk.get r) ∧
    (∃ t u, exec (.setkeyv 32) s = .next t ∧ exec (.setkey 32) t = .next u ∧
      u.ksv = true ∧ u.vksv = true ∧ ∀ (r : Fin 32) (l : Fin 8), lane (u.vrk.get r) l.val = u.rk.get r)

/-- 46_feistel_vector.md R230, "the central correctness property of the whole system": for one key, ENC8 writes for block i
exactly the bytes ENC1 writes for that block alone. `s` is driven through SETKEYV and ENC8; `s1` holds the same table bank
and key and has block i in DIN[0..7], and is driven through SETKEY and ENC1. -/
def Obligations.VectorEncryptionEqualsScalarEncryption : Prop :=
  ∀ (s s1 : State) (i : Nat), i < 8 → s.err = 0#4 → s1.err = 0#4 → s1.tables = s.tables →
    (∀ j, j < 32 → s1.buf .keyin j = s.buf .keyin j) → (∀ p, p < 8 → s1.buf .din p = s.buf .din (8 * i + p)) →
    ∃ a b c d, exec (.setkeyv 32) s = .next a ∧ exec (.enc8 64) a = .next b ∧ exec (.setkey 32) s1 = .next c ∧
      exec (.enc1 8) c = .next d ∧ ∀ p, p < 8 → b.buf .dout (8 * i + p) = d.buf .dout p

/-- 46_feistel_vector.md section 3: lane i's output depends only on lane i's input and on lane i of the schedule. -/
def Obligations.Enc8LanesAreIndependent : Prop :=
  ∀ (s s' t t' : State) (i : Nat), i < 8 → s.err = 0#4 → s'.err = 0#4 → s.vksv = true → s'.vksv = true →
    s'.tables = s.tables → (∀ r : Fin 32, lane (s'.vrk.get r) i = lane (s.vrk.get r) i) →
    (∀ p, p < 8 → s'.buf .din (8 * i + p) = s.buf .din (8 * i + p)) →
    exec (.enc8 64) s = .next t → exec (.enc8 64) s' = .next t' →
    ∀ p, p < 8 → t'.buf .dout (8 * i + p) = t.buf .dout (8 * i + p)

/-- 20_memory.md section 2: the scalar load and store of a block copy its eight bytes. -/
def Obligations.ScalarLoadThenStoreCopiesTheBlock : Prop :=
  ∀ s : State, (∀ j, j < 8 → ((s.putDout 0 (be32 (s.buf .din) 0)).putDout 4 (be32 (s.buf .din) 4)).buf .dout j = s.buf .din j) ∧
    DoutOnly s ((s.putDout 0 (be32 (s.buf .din) 0)).putDout 4 (be32 (s.buf .din) 4)) 8

/-! ### Runs and several instances -/

/-- 70_reset_and_hazards.md sections 4 and 5: a run of accesses the interface admits never gets stuck, takes every event and
shows one value per read. -/
def Obligations.AdmittedRunsComplete : Prop :=
  ∀ (es : List HostEvent) (s : State), (∀ e ∈ es, e.Admitted) →
    ∃ t, runEvents es s = .next t ∧ t.pending = [] ∧ t.tables = s.tables ∧
      ∃ vs : List Reading, t.observed = s.observed ++ vs ∧ vs.length = es.countP isRead

/-- 60_exceptions.md section 6: a step of one instance of a platform leaves every other instance as it is, and every instance
keeps its number, which picks its BASE and its unspecified contents (log 13). -/
def Obligations.PlatformInstancesShareNothing : Prop :=
  ∀ (k : Nat) (p q : Platform), platformStep k p = .next q →
    q.length = p.length ∧ (∀ j, j ≠ k → q[j]? = p[j]?) ∧ ∀ s, p[k]? = some s → ∃ t, step s = .next t ∧ q[k]? = some t ∧ t.unit = s.unit

/-- 60_exceptions.md section 6: the instances of a platform start at their own reset, with different numbers (the model's way to
give each its own BASE and contents, log 13) and one table bank. -/
def Obligations.PlatformInstancesStartApart : Prop :=
  ∀ n : Nat, (Platform.reset n).length = n ∧ (Platform.reset n).Pairwise (fun s t => s.unit ≠ t.unit) ∧
    ∀ s ∈ Platform.reset n, s.tables = State.reset.tables ∧ s.ksv = false ∧ s.vksv = false ∧ s.err = 0#4 ∧ s.errcmd = 0#32

/-! ### The host script -/

/-- 30_encoding.md R88: a `cmd` line writes `OPC | (n << 8)` to CMD. For n up to 255 that is the command with LEN n; a larger n
reaches RSV and the word is no command (where the shifted n no longer fits the word, log 17, nothing is said). -/
def Obligations.CommandLinesWriteOpcAndShiftedLength : Prop :=
  ∀ i : Instr, ∃ w : Word, (ScriptLine.cmd i).events = [.write32 0x0 w] ∧
    (i.len < 2 ^ 24 → w.toNat = i.opc.toNat + 256 * i.len) ∧
    (i.len < 256 → w = encode i ∧ decode w = .command i) ∧
    (256 ≤ i.len → i.len < 2 ^ 24 → ∃ e, decode w = .rejected e)

/-- 30_encoding.md R88: a `wr` line that stays inside its buffer writes its bytes at ascending indices and nothing else. -/
def Obligations.ByteLinesWriteAscendingIndices : Prop :=
  (∀ (s : State) (o : Nat) (bs : List Byte), o + bs.length ≤ 32 →
    ∃ t, runEvents (ScriptLine.wrKeyin o bs).events s = .next t ∧ t = { s with mem := t.mem, pending := [] } ∧
      (∀ i (h : i < bs.length), t.buf .keyin (o + i) = bs[i]) ∧
      ∀ a, ¬ (0x20 + o ≤ a ∧ a < 0x20 + o + bs.length) → t.byteAt a = s.byteAt a) ∧
  (∀ (s : State) (o : Nat) (bs : List Byte), o + bs.length ≤ 64 →
    ∃ t, runEvents (ScriptLine.wrDin o bs).events s = .next t ∧ t = { s with mem := t.mem, pending := [] } ∧
      (∀ i (h : i < bs.length), t.buf .din (o + i) = bs[i]) ∧
      ∀ a, ¬ (0x40 + o ≤ a ∧ a < 0x40 + o + bs.length) → t.byteAt a = s.byteAt a)

/-- 30_encoding.md R88: an `rd DOUT` line that stays inside DOUT returns its bytes in ascending order and changes nothing. -/
def Obligations.ByteLinesReadAscendingIndices : Prop :=
  ∀ (s : State) (o n : Nat), o + n ≤ 64 →
    runEvents (ScriptLine.rdDout o n).events s =
      .next { s with pending := [], observed := s.observed ++ (List.range n).map fun i => .byte (s.buf .dout (o + i)) }
end

