-- ==== Sys2Proof/Laws/Bits.lean ====
section
/-! SUPPORT. Laws of bytes, words and lanes: what each primitive leaves in each byte and each lane. -/

namespace Sys2Proof.Machine
open BitVec

/-- A bit of a register is a bit of the lane it lies in. -/
theorem getLsbD_ofLanes (f : Nat → Word) (i : Nat) (h : i < 256) :
    (ofLanes f).getLsbD i = (f (i / 32)).getLsbD (i % 32) := by
  simp only [ofLanes, getLsbD_append]
  obtain ⟨q, r, hq, hr, rfl⟩ : ∃ q r, q < 8 ∧ r < 32 ∧ i = 32 * q + r :=
    ⟨i / 32, i % 32, by omega, Nat.mod_lt _ (by decide), by omega⟩
  have e1 : (32 * q + r) / 32 = q := by omega
  have e2 : (32 * q + r) % 32 = r := by omega
  rw [e1, e2]
  clear e1 e2
  interval_cases q <;> (repeat (first | rw [if_neg (by omega)] | rw [if_pos (by omega)])) <;>
    exact congrArg _ (by omega)

theorem lane_ofLanes (f : Nat → Word) {l : Nat} (h : l < 8) : lane (ofLanes f) l = f l := by
  ext i hi
  simp only [lane, getElem_extractLsb']
  rw [getLsbD_ofLanes _ _ (by omega)]
  have e1 : (32 * l + i) / 32 = l := by omega
  have e2 : (32 * l + i) % 32 = i := by omega
  rw [e1, e2, getLsbD_eq_getElem hi]

/-- Two registers with the same eight lanes are equal. -/
theorem ext_lanes {a b : VReg} (h : ∀ l, l < 8 → lane a l = lane b l) : a = b := by
  ext i hi
  have hl := congrArg (fun w : Word => w.getLsbD (i % 32)) (h (i / 32) (by omega))
  simp only [lane, getLsbD_extractLsb'] at hl
  have e : 32 * (i / 32) + i % 32 = i := by omega
  rw [e] at hl
  simpa [Nat.mod_lt, getLsbD_eq_getElem, hi] using hl

theorem lane_bcast8 (w : Word) {l : Nat} (h : l < 8) : lane (bcast8 w) l = w := lane_ofLanes _ h

theorem lane_vadd32 (a b : VReg) {l : Nat} (h : l < 8) : lane (vadd32 a b) l = add32 (lane a l) (lane b l) :=
  lane_ofLanes _ h

theorem lane_vxor (a b : VReg) {l : Nat} (h : l < 8) : lane (vxor a b) l = xor32 (lane a l) (lane b l) :=
  lane_ofLanes _ h

theorem lane_vload (b : Nat → Byte) (o : Nat) {l : Nat} (h : l < 8) : lane (vload b o) l = le32 b (o + 4 * l) :=
  lane_ofLanes _ h

theorem lane_vbswap32 (v : VReg) {l : Nat} (h : l < 8) : lane (vbswap32 v) l = bswap32 (lane v l) := lane_ofLanes _ h

/-- The bytes of a word put together from four bytes. -/
theorem byteOf_word (a b c d : Byte) {p : Nat} (h : p < 4) :
    byteOf (a ++ b ++ c ++ d) p = if p = 0 then d else if p = 1 then c else if p = 2 then b else a := by
  ext i hi
  simp only [byteOf, getElem_extractLsb', getLsbD_append]
  interval_cases p <;> (repeat (first | rw [if_neg (by omega)] | rw [if_pos (by omega)])) <;>
    (rw [← getLsbD_eq_getElem]; exact congrArg _ (by omega))

/-- A word is its four bytes, position 3 first. -/
theorem word_of_bytes (w : Word) : byteOf w 3 ++ byteOf w 2 ++ byteOf w 1 ++ byteOf w 0 = w := by
  ext i hi
  simp only [getElem_append, byteOf, getElem_extractLsb']
  split_ifs <;> (rw [← getLsbD_eq_getElem]; exact congrArg _ (by omega))

/-- Two words with the same four bytes are equal. -/
theorem ext_bytes {v w : Word} (h : ∀ p, p < 4 → byteOf v p = byteOf w p) : v = w := by
  rw [← word_of_bytes v, ← word_of_bytes w, h 0 (by omega), h 1 (by omega), h 2 (by omega), h 3 (by omega)]

theorem byteOf_bswap32 (w : Word) {p : Nat} (h : p < 4) : byteOf (bswap32 w) p = byteOf w (3 - p) := by
  rw [bswap32, byteOf_word _ _ _ _ h]
  interval_cases p <;> rfl

theorem bswap32_bswap32 (w : Word) : bswap32 (bswap32 w) = w := by
  apply ext_bytes
  intro p h
  rw [byteOf_bswap32 _ h, byteOf_bswap32 _ (by omega)]
  exact congrArg _ (by omega)

theorem byteOf_be32 (b : Nat → Byte) (o : Nat) {p : Nat} (h : p < 4) : byteOf (be32 b o) p = b (o + (3 - p)) := by
  rw [be32, byteOf_word _ _ _ _ h]
  interval_cases p <;> rfl

theorem byteOf_le32 (b : Nat → Byte) (o : Nat) {p : Nat} (h : p < 4) : byteOf (le32 b o) p = b (o + p) := by
  rw [le32, byteOf_word _ _ _ _ h]
  interval_cases p <;> rfl

/-- The law of 00_scope.md R14, in the form the vector load uses. -/
theorem bswap32_le32 (b : Nat → Byte) (o : Nat) : bswap32 (le32 b o) = be32 b o := by
  apply ext_bytes
  intro p h
  rw [byteOf_bswap32 _ h, byteOf_le32 _ _ (by omega), byteOf_be32 _ _ h]

/-- A word read from the same four bytes is the same word. -/
theorem be32_congr {b c : Nat → Byte} {o q : Nat} (h : ∀ p, p < 4 → b (o + p) = c (q + p)) : be32 b o = be32 c q := by
  have h0 := h 0 (by omega)
  have h1 := h 1 (by omega)
  have h2 := h 2 (by omega)
  have h3 := h 3 (by omega)
  simp only [Nat.add_zero] at h0
  rw [be32, be32, h0, h1, h2, h3]

/-- Byte m of a register is byte m mod 4 of lane m / 4. -/
theorem vreg_byte (v : VReg) (m : Nat) : v.extractLsb' (8 * m) 8 = byteOf (lane v (m / 4)) (m % 4) := by
  ext i hi
  simp only [byteOf, lane, getElem_extractLsb', getLsbD_extractLsb']
  have e : 32 * (m / 4) + (8 * (m % 4) + i) = 8 * m + i := by omega
  have hlt : 8 * (m % 4) + i < 32 := by omega
  simp only [e, hlt, decide_true, Bool.true_and]

@[simp] theorem vstoreBytes_length (v : VReg) : (vstoreBytes v).length = 32 := by simp [vstoreBytes]

@[simp] theorem be32Bytes_length (w : Word) : (be32Bytes w).length = 4 := rfl

theorem be32Bytes_getElem (w : Word) {p : Nat} (h : p < (be32Bytes w).length) : (be32Bytes w)[p] = byteOf w (3 - p) := by
  have h' : p < 4 := by simpa using h
  interval_cases p <;> rfl

theorem vstoreBytes_getElem (v : VReg) {m : Nat} (h : m < (vstoreBytes v).length) :
    (vstoreBytes v)[m] = byteOf (lane v (m / 4)) (m % 4) := by
  simp only [vstoreBytes, List.getElem_map, List.getElem_range]
  exact vreg_byte v m

/-- Byte m that `VSTORE(B, o, VBSWAP32(V))` writes (45_shuffle.md R216). -/
theorem vstoreBytes_vbswap32_getElem (v : VReg) {m : Nat} (h : m < (vstoreBytes (vbswap32 v)).length) :
    (vstoreBytes (vbswap32 v))[m] = byteOf (lane v (m / 4)) (3 - m % 4) := by
  have hm : m < 32 := by simpa using h
  rw [vstoreBytes_getElem, lane_vbswap32 _ (by omega), byteOf_bswap32 _ (by omega)]

/-- 45_shuffle.md R212: the byte-reversed load holds big-endian words. -/
theorem lane_vbswap32_vload (b : Nat → Byte) (o : Nat) {l : Nat} (h : l < 8) :
    lane (vbswap32 (vload b o)) l = be32 b (o + 4 * l) := by
  rw [lane_vbswap32 _ h, lane_vload _ _ h, bswap32_le32]

/-- The de-interleave, lane by lane (45_shuffle.md R213). -/
theorem lane_vdeint_fst (a b : VReg) {i : Nat} (h : i < 8) : lane (vdeint a b).1 i = blockSetWord a b (2 * i) := by
  simp only [vdeint, lane_ofLanes _ h]

theorem lane_vdeint_snd (a b : VReg) {i : Nat} (h : i < 8) : lane (vdeint a b).2 i = blockSetWord a b (2 * i + 1) := by
  simp only [vdeint, lane_ofLanes _ h]

/-- The interleave, lane by lane (45_shuffle.md R214). -/
theorem lane_vint_fst (p q : VReg) {n : Nat} (h : n < 8) : lane (vint p q).1 n = interleavedWord p q n := by
  simp only [vint, lane_ofLanes _ h]

theorem lane_vint_snd (p q : VReg) {n : Nat} (h : n < 8) : lane (vint p q).2 n = interleavedWord p q (n + 8) := by
  simp only [vint, lane_ofLanes _ h]

/-- The block-set word of two loaded and byte-reversed registers. -/
theorem blockSetWord_loaded (b : Nat → Byte) {n : Nat} (h : n < 16) :
    blockSetWord (vbswap32 (vload b 0)) (vbswap32 (vload b 32)) n = be32 b (4 * n) := by
  rw [blockSetWord]
  split_ifs with hn
  · rw [lane_vbswap32_vload _ _ hn, Nat.zero_add]
  · rw [lane_vbswap32_vload _ _ (by omega)]
    exact congrArg _ (by omega)

end Sys2Proof.Machine
end

