-- ==== Sys2Proof/Laws/Memory.lean ====
section
/-! SUPPORT. Laws of the byte memory: what a write changes and what it leaves alone; every operation keeps the canonical
form; canonical memories with the same contents are equal. -/

namespace Sys2Proof.Machine

@[simp] theorem Memory.lookup_nil (a : Nat) : Memory.lookup [] a = none := rfl

theorem Memory.lookup_cons (c : Host.Cell) (m : Memory) (a : Nat) :
    Memory.lookup (c :: m) a = if c.1 = a then some c.2 else Memory.lookup m a := rfl

/-- Read after write, at the address written and at every other. -/
theorem Memory.lookup_write (m : Memory) (a x : Nat) (v : Byte) :
    (Memory.write m a v).lookup x = if x = a then some v else m.lookup x := by
  induction m with
  | nil => simp only [Memory.write, Memory.lookup_cons]; split_ifs <;> first | rfl | omega
  | cons c m ih =>
    simp only [Memory.write]
    split_ifs with h1 h2 h3 h4 <;> simp only [Memory.lookup_cons, ih] <;> split_ifs <;> first | rfl | omega

theorem Memory.mem_write {m : Memory} {a : Nat} {v : Byte} {c : Host.Cell} (h : c ∈ Memory.write m a v) :
    c = (a, v) ∨ c ∈ m := by
  induction m with
  | nil => simpa [Memory.write] using h
  | cons d m ih =>
    simp only [Memory.write] at h
    split_ifs at h <;> simp only [List.mem_cons] at h ⊢ <;> tauto

/-- A write keeps the canonical form. -/
theorem Memory.write_wf {m : Memory} (h : m.wf) (a : Nat) (v : Byte) : (Memory.write m a v).wf := by
  induction m with
  | nil => simp [Memory.write, Memory.wf]
  | cons c m ih =>
    obtain ⟨hc, hm⟩ := List.pairwise_cons.mp h
    simp only [Memory.write]
    split_ifs with h1 h2
    · refine List.pairwise_cons.mpr ⟨fun d hd => ?_, h⟩
      rcases List.mem_cons.mp hd with rfl | hd
      · exact h1
      · exact Nat.lt_trans h1 (hc d hd)
    · subst h2
      exact List.pairwise_cons.mpr ⟨hc, hm⟩
    · refine List.pairwise_cons.mpr ⟨fun d hd => ?_, ih hm⟩
      rcases Memory.mem_write hd with rfl | hd
      · simp only; omega
      · exact hc d hd

/-- Writing a list of bytes, read back at every address. -/
theorem Memory.lookup_writeBytes (m : Memory) (a x : Nat) (vs : List Byte) :
    (Memory.writeBytes m a vs).lookup x = if h : a ≤ x ∧ x - a < vs.length then some vs[x - a] else m.lookup x := by
  induction vs generalizing m a with
  | nil => simp [Memory.writeBytes]
  | cons v vs ih =>
    rw [Memory.writeBytes, ih, Memory.lookup_write]
    by_cases hx : x = a
    · subst hx
      simp
    · by_cases hlt : a + 1 ≤ x ∧ x - (a + 1) < vs.length
      · have hb : a ≤ x ∧ x - a < (v :: vs).length := by simp only [List.length_cons]; omega
        have e : x - a = x - (a + 1) + 1 := by omega
        rw [dif_pos hlt, dif_pos hb]
        simp only [e, List.getElem_cons_succ]
      · have hb : ¬ (a ≤ x ∧ x - a < (v :: vs).length) := by simp only [List.length_cons]; omega
        rw [dif_neg hlt, dif_neg hb, if_neg hx]

theorem Memory.writeBytes_wf {m : Memory} (h : m.wf) (a : Nat) (vs : List Byte) : (Memory.writeBytes m a vs).wf := by
  induction vs generalizing m a with
  | nil => exact h
  | cons v vs ih => exact ih (Memory.write_wf h a v) (a + 1)

theorem Memory.mem_writeBytes {m : Memory} {a : Nat} {vs : List Byte} {c : Host.Cell}
    (h : c ∈ Memory.writeBytes m a vs) : c ∈ m ∨ (a ≤ c.1 ∧ c.1 < a + vs.length) := by
  induction vs generalizing m a with
  | nil => exact .inl h
  | cons v vs ih =>
    simp only [List.length_cons]
    rcases ih h with hm | hr
    · rcases Memory.mem_write hm with rfl | hm
      · right; simp only; omega
      · exact .inl hm
    · right; omega

theorem Memory.lookup_none_of_lt {m : Memory} {a : Nat} (h : ∀ c ∈ m, a < c.1) : m.lookup a = none := by
  induction m with
  | nil => rfl
  | cons c m ih =>
    have hc := h c (by simp)
    rw [Memory.lookup_cons, if_neg (by omega)]
    exact ih fun d hd => h d (by simp [hd])

/-- Canonical memories that read the same everywhere are the same data. -/
theorem Memory.ext_lookup {m n : Memory} (hm : m.wf) (hn : n.wf) (h : ∀ a, m.lookup a = n.lookup a) : m = n := by
  induction m generalizing n with
  | nil =>
    cases n with
    | nil => rfl
    | cons d n => have := h d.1; simp [Memory.lookup] at this
  | cons c m ih =>
    cases n with
    | nil => have := h c.1; simp [Memory.lookup] at this
    | cons d n =>
      obtain ⟨hc, hm'⟩ := List.pairwise_cons.mp hm
      obtain ⟨hd, hn'⟩ := List.pairwise_cons.mp hn
      have hcd : c.1 = d.1 := by
        rcases Nat.lt_trichotomy c.1 d.1 with hl | he | hl
        · have := h c.1
          rw [Memory.lookup_none_of_lt (m := d :: n)] at this
          · simp [Memory.lookup] at this
          · intro e he
            rcases List.mem_cons.mp he with rfl | he
            · exact hl
            · exact Nat.lt_trans hl (hd e he)
        · exact he
        · have := h d.1
          rw [Memory.lookup_none_of_lt (m := c :: m)] at this
          · simp [Memory.lookup] at this
          · intro e he
            rcases List.mem_cons.mp he with rfl | he
            · exact hl
            · exact Nat.lt_trans hl (hc e he)
      have hv : c.2 = d.2 := by
        have := h c.1
        simpa [Memory.lookup, hcd] using this
      have heq : c = d := Prod.ext hcd hv
      subst heq
      refine congrArg _ (ih hm' hn' fun a => ?_)
      by_cases ha : c.1 = a
      · subst ha
        rw [Memory.lookup_none_of_lt hc, Memory.lookup_none_of_lt hd]
      · have := h a
        simpa [Memory.lookup, ha] using this

end Sys2Proof.Machine
end

