-- ==== Sys2Proof/Laws/State.lean ====
section
/-! SUPPORT. One lemma per field per named update of the state, true by rfl, so that no later proof unfolds an update. -/

namespace Sys2Proof.Machine

variable (s : State)

@[simp] theorem store_tables (a : Nat) (bs : List Byte) : (s.store a bs).tables = s.tables := rfl
@[simp] theorem store_rk (a : Nat) (bs : List Byte) : (s.store a bs).rk = s.rk := rfl
@[simp] theorem store_ksv (a : Nat) (bs : List Byte) : (s.store a bs).ksv = s.ksv := rfl
@[simp] theorem store_vrk (a : Nat) (bs : List Byte) : (s.store a bs).vrk = s.vrk := rfl
@[simp] theorem store_vksv (a : Nat) (bs : List Byte) : (s.store a bs).vksv = s.vksv := rfl
@[simp] theorem store_mem (a : Nat) (bs : List Byte) : (s.store a bs).mem = s.mem.writeBytes a bs := rfl
@[simp] theorem store_err (a : Nat) (bs : List Byte) : (s.store a bs).err = s.err := rfl
@[simp] theorem store_errcmd (a : Nat) (bs : List Byte) : (s.store a bs).errcmd = s.errcmd := rfl
@[simp] theorem store_work (a : Nat) (bs : List Byte) : (s.store a bs).work = s.work := rfl
@[simp] theorem store_pending (a : Nat) (bs : List Byte) : (s.store a bs).pending = s.pending := rfl
@[simp] theorem store_observed (a : Nat) (bs : List Byte) : (s.store a bs).observed = s.observed := rfl
@[simp] theorem store_epoch (a : Nat) (bs : List Byte) : (s.store a bs).epoch = s.epoch := rfl
@[simp] theorem store_draws (a : Nat) (bs : List Byte) : (s.store a bs).draws = s.draws := rfl
@[simp] theorem store_unit (a : Nat) (bs : List Byte) : (s.store a bs).unit = s.unit := rfl

@[simp] theorem storeBuf_tables (b : Buffer) (o : Nat) (bs : List Byte) : (s.storeBuf b o bs).tables = s.tables := rfl
@[simp] theorem storeBuf_rk (b : Buffer) (o : Nat) (bs : List Byte) : (s.storeBuf b o bs).rk = s.rk := rfl
@[simp] theorem storeBuf_ksv (b : Buffer) (o : Nat) (bs : List Byte) : (s.storeBuf b o bs).ksv = s.ksv := rfl
@[simp] theorem storeBuf_vrk (b : Buffer) (o : Nat) (bs : List Byte) : (s.storeBuf b o bs).vrk = s.vrk := rfl
@[simp] theorem storeBuf_vksv (b : Buffer) (o : Nat) (bs : List Byte) : (s.storeBuf b o bs).vksv = s.vksv := rfl
@[simp] theorem storeBuf_mem (b : Buffer) (o : Nat) (bs : List Byte) : (s.storeBuf b o bs).mem = s.mem.writeBytes (b.base + o) bs := rfl
@[simp] theorem storeBuf_err (b : Buffer) (o : Nat) (bs : List Byte) : (s.storeBuf b o bs).err = s.err := rfl
@[simp] theorem storeBuf_errcmd (b : Buffer) (o : Nat) (bs : List Byte) : (s.storeBuf b o bs).errcmd = s.errcmd := rfl
@[simp] theorem storeBuf_work (b : Buffer) (o : Nat) (bs : List Byte) : (s.storeBuf b o bs).work = s.work := rfl
@[simp] theorem storeBuf_pending (b : Buffer) (o : Nat) (bs : List Byte) : (s.storeBuf b o bs).pending = s.pending := rfl
@[simp] theorem storeBuf_observed (b : Buffer) (o : Nat) (bs : List Byte) : (s.storeBuf b o bs).observed = s.observed := rfl
@[simp] theorem storeBuf_epoch (b : Buffer) (o : Nat) (bs : List Byte) : (s.storeBuf b o bs).epoch = s.epoch := rfl
@[simp] theorem storeBuf_draws (b : Buffer) (o : Nat) (bs : List Byte) : (s.storeBuf b o bs).draws = s.draws := rfl
@[simp] theorem storeBuf_unit (b : Buffer) (o : Nat) (bs : List Byte) : (s.storeBuf b o bs).unit = s.unit := rfl

@[simp] theorem putDout_tables (o : Nat) (w : Word) : (s.putDout o w).tables = s.tables := rfl
@[simp] theorem putDout_rk (o : Nat) (w : Word) : (s.putDout o w).rk = s.rk := rfl
@[simp] theorem putDout_ksv (o : Nat) (w : Word) : (s.putDout o w).ksv = s.ksv := rfl
@[simp] theorem putDout_vrk (o : Nat) (w : Word) : (s.putDout o w).vrk = s.vrk := rfl
@[simp] theorem putDout_vksv (o : Nat) (w : Word) : (s.putDout o w).vksv = s.vksv := rfl
@[simp] theorem putDout_mem (o : Nat) (w : Word) : (s.putDout o w).mem = s.mem.writeBytes (Buffer.dout.base + o) (be32Bytes w) := rfl
@[simp] theorem putDout_err (o : Nat) (w : Word) : (s.putDout o w).err = s.err := rfl
@[simp] theorem putDout_errcmd (o : Nat) (w : Word) : (s.putDout o w).errcmd = s.errcmd := rfl
@[simp] theorem putDout_work (o : Nat) (w : Word) : (s.putDout o w).work = s.work := rfl
@[simp] theorem putDout_pending (o : Nat) (w : Word) : (s.putDout o w).pending = s.pending := rfl
@[simp] theorem putDout_observed (o : Nat) (w : Word) : (s.putDout o w).observed = s.observed := rfl
@[simp] theorem putDout_epoch (o : Nat) (w : Word) : (s.putDout o w).epoch = s.epoch := rfl
@[simp] theorem putDout_draws (o : Nat) (w : Word) : (s.putDout o w).draws = s.draws := rfl
@[simp] theorem putDout_unit (o : Nat) (w : Word) : (s.putDout o w).unit = s.unit := rfl

@[simp] theorem raise_tables (f : EngineFault) (w : Word) : (s.raise f w).tables = s.tables := rfl
@[simp] theorem raise_rk (f : EngineFault) (w : Word) : (s.raise f w).rk = s.rk := rfl
@[simp] theorem raise_ksv (f : EngineFault) (w : Word) : (s.raise f w).ksv = s.ksv := rfl
@[simp] theorem raise_vrk (f : EngineFault) (w : Word) : (s.raise f w).vrk = s.vrk := rfl
@[simp] theorem raise_vksv (f : EngineFault) (w : Word) : (s.raise f w).vksv = s.vksv := rfl
@[simp] theorem raise_mem (f : EngineFault) (w : Word) : (s.raise f w).mem = s.mem := rfl
@[simp] theorem raise_err (f : EngineFault) (w : Word) : (s.raise f w).err = f.code := rfl
@[simp] theorem raise_errcmd (f : EngineFault) (w : Word) : (s.raise f w).errcmd = w := rfl
@[simp] theorem raise_work (f : EngineFault) (w : Word) : (s.raise f w).work = s.work := rfl
@[simp] theorem raise_pending (f : EngineFault) (w : Word) : (s.raise f w).pending = s.pending := rfl
@[simp] theorem raise_observed (f : EngineFault) (w : Word) : (s.raise f w).observed = s.observed := rfl
@[simp] theorem raise_epoch (f : EngineFault) (w : Word) : (s.raise f w).epoch = s.epoch := rfl
@[simp] theorem raise_draws (f : EngineFault) (w : Word) : (s.raise f w).draws = s.draws := rfl
@[simp] theorem raise_unit (f : EngineFault) (w : Word) : (s.raise f w).unit = s.unit := rfl

@[simp] theorem clearFault_tables : (s.clearFault).tables = s.tables := rfl
@[simp] theorem clearFault_rk : (s.clearFault).rk = s.rk := rfl
@[simp] theorem clearFault_ksv : (s.clearFault).ksv = s.ksv := rfl
@[simp] theorem clearFault_vrk : (s.clearFault).vrk = s.vrk := rfl
@[simp] theorem clearFault_vksv : (s.clearFault).vksv = s.vksv := rfl
@[simp] theorem clearFault_mem : (s.clearFault).mem = s.mem := rfl
@[simp] theorem clearFault_err : (s.clearFault).err = 0#4 := rfl
@[simp] theorem clearFault_errcmd : (s.clearFault).errcmd = 0#32 := rfl
@[simp] theorem clearFault_work : (s.clearFault).work = s.work := rfl
@[simp] theorem clearFault_pending : (s.clearFault).pending = s.pending := rfl
@[simp] theorem clearFault_observed : (s.clearFault).observed = s.observed := rfl
@[simp] theorem clearFault_epoch : (s.clearFault).epoch = s.epoch := rfl
@[simp] theorem clearFault_draws : (s.clearFault).draws = s.draws := rfl
@[simp] theorem clearFault_unit : (s.clearFault).unit = s.unit := rfl

@[simp] theorem setScalarSchedule_tables (k : Vector Word 32) : (s.setScalarSchedule k).tables = s.tables := rfl
@[simp] theorem setScalarSchedule_rk (k : Vector Word 32) : (s.setScalarSchedule k).rk = k := rfl
@[simp] theorem setScalarSchedule_ksv (k : Vector Word 32) : (s.setScalarSchedule k).ksv = true := rfl
@[simp] theorem setScalarSchedule_vrk (k : Vector Word 32) : (s.setScalarSchedule k).vrk = s.vrk := rfl
@[simp] theorem setScalarSchedule_vksv (k : Vector Word 32) : (s.setScalarSchedule k).vksv = s.vksv := rfl
@[simp] theorem setScalarSchedule_mem (k : Vector Word 32) : (s.setScalarSchedule k).mem = s.mem := rfl
@[simp] theorem setScalarSchedule_err (k : Vector Word 32) : (s.setScalarSchedule k).err = s.err := rfl
@[simp] theorem setScalarSchedule_errcmd (k : Vector Word 32) : (s.setScalarSchedule k).errcmd = s.errcmd := rfl
@[simp] theorem setScalarSchedule_work (k : Vector Word 32) : (s.setScalarSchedule k).work = s.work := rfl
@[simp] theorem setScalarSchedule_pending (k : Vector Word 32) : (s.setScalarSchedule k).pending = s.pending := rfl
@[simp] theorem setScalarSchedule_observed (k : Vector Word 32) : (s.setScalarSchedule k).observed = s.observed := rfl
@[simp] theorem setScalarSchedule_epoch (k : Vector Word 32) : (s.setScalarSchedule k).epoch = s.epoch := rfl
@[simp] theorem setScalarSchedule_draws (k : Vector Word 32) : (s.setScalarSchedule k).draws = s.draws := rfl
@[simp] theorem setScalarSchedule_unit (k : Vector Word 32) : (s.setScalarSchedule k).unit = s.unit := rfl

@[simp] theorem setVectorSchedule_tables (k : Vector VReg 32) : (s.setVectorSchedule k).tables = s.tables := rfl
@[simp] theorem setVectorSchedule_rk (k : Vector VReg 32) : (s.setVectorSchedule k).rk = s.rk := rfl
@[simp] theorem setVectorSchedule_ksv (k : Vector VReg 32) : (s.setVectorSchedule k).ksv = s.ksv := rfl
@[simp] theorem setVectorSchedule_vrk (k : Vector VReg 32) : (s.setVectorSchedule k).vrk = k := rfl
@[simp] theorem setVectorSchedule_vksv (k : Vector VReg 32) : (s.setVectorSchedule k).vksv = true := rfl
@[simp] theorem setVectorSchedule_mem (k : Vector VReg 32) : (s.setVectorSchedule k).mem = s.mem := rfl
@[simp] theorem setVectorSchedule_err (k : Vector VReg 32) : (s.setVectorSchedule k).err = s.err := rfl
@[simp] theorem setVectorSchedule_errcmd (k : Vector VReg 32) : (s.setVectorSchedule k).errcmd = s.errcmd := rfl
@[simp] theorem setVectorSchedule_work (k : Vector VReg 32) : (s.setVectorSchedule k).work = s.work := rfl
@[simp] theorem setVectorSchedule_pending (k : Vector VReg 32) : (s.setVectorSchedule k).pending = s.pending := rfl
@[simp] theorem setVectorSchedule_observed (k : Vector VReg 32) : (s.setVectorSchedule k).observed = s.observed := rfl
@[simp] theorem setVectorSchedule_epoch (k : Vector VReg 32) : (s.setVectorSchedule k).epoch = s.epoch := rfl
@[simp] theorem setVectorSchedule_draws (k : Vector VReg 32) : (s.setVectorSchedule k).draws = s.draws := rfl
@[simp] theorem setVectorSchedule_unit (k : Vector VReg 32) : (s.setVectorSchedule k).unit = s.unit := rfl

@[simp] theorem releaseWork_tables : (s.releaseWork).tables = s.tables := rfl
@[simp] theorem releaseWork_rk : (s.releaseWork).rk = s.rk := rfl
@[simp] theorem releaseWork_ksv : (s.releaseWork).ksv = s.ksv := rfl
@[simp] theorem releaseWork_vrk : (s.releaseWork).vrk = s.vrk := rfl
@[simp] theorem releaseWork_vksv : (s.releaseWork).vksv = s.vksv := rfl
@[simp] theorem releaseWork_mem : (s.releaseWork).mem = s.mem := rfl
@[simp] theorem releaseWork_err : (s.releaseWork).err = s.err := rfl
@[simp] theorem releaseWork_errcmd : (s.releaseWork).errcmd = s.errcmd := rfl
@[simp] theorem releaseWork_work : (s.releaseWork).work = unspecifiedWork s.unit (s.draws + 1) := rfl
@[simp] theorem releaseWork_pending : (s.releaseWork).pending = s.pending := rfl
@[simp] theorem releaseWork_observed : (s.releaseWork).observed = s.observed := rfl
@[simp] theorem releaseWork_epoch : (s.releaseWork).epoch = s.epoch := rfl
@[simp] theorem releaseWork_draws : (s.releaseWork).draws = s.draws + 1 := rfl
@[simp] theorem releaseWork_unit : (s.releaseWork).unit = s.unit := rfl

@[simp] theorem observe_tables (r : Reading) : (s.observe r).tables = s.tables := rfl
@[simp] theorem observe_rk (r : Reading) : (s.observe r).rk = s.rk := rfl
@[simp] theorem observe_ksv (r : Reading) : (s.observe r).ksv = s.ksv := rfl
@[simp] theorem observe_vrk (r : Reading) : (s.observe r).vrk = s.vrk := rfl
@[simp] theorem observe_vksv (r : Reading) : (s.observe r).vksv = s.vksv := rfl
@[simp] theorem observe_mem (r : Reading) : (s.observe r).mem = s.mem := rfl
@[simp] theorem observe_err (r : Reading) : (s.observe r).err = s.err := rfl
@[simp] theorem observe_errcmd (r : Reading) : (s.observe r).errcmd = s.errcmd := rfl
@[simp] theorem observe_work (r : Reading) : (s.observe r).work = s.work := rfl
@[simp] theorem observe_pending (r : Reading) : (s.observe r).pending = s.pending := rfl
@[simp] theorem observe_observed (r : Reading) : (s.observe r).observed = s.observed ++ [r] := rfl
@[simp] theorem observe_epoch (r : Reading) : (s.observe r).epoch = s.epoch := rfl
@[simp] theorem observe_draws (r : Reading) : (s.observe r).draws = s.draws := rfl
@[simp] theorem observe_unit (r : Reading) : (s.observe r).unit = s.unit := rfl

@[simp] theorem withPending_tables (es : List HostEvent) : (s.withPending es).tables = s.tables := rfl
@[simp] theorem withPending_rk (es : List HostEvent) : (s.withPending es).rk = s.rk := rfl
@[simp] theorem withPending_ksv (es : List HostEvent) : (s.withPending es).ksv = s.ksv := rfl
@[simp] theorem withPending_vrk (es : List HostEvent) : (s.withPending es).vrk = s.vrk := rfl
@[simp] theorem withPending_vksv (es : List HostEvent) : (s.withPending es).vksv = s.vksv := rfl
@[simp] theorem withPending_mem (es : List HostEvent) : (s.withPending es).mem = s.mem := rfl
@[simp] theorem withPending_err (es : List HostEvent) : (s.withPending es).err = s.err := rfl
@[simp] theorem withPending_errcmd (es : List HostEvent) : (s.withPending es).errcmd = s.errcmd := rfl
@[simp] theorem withPending_work (es : List HostEvent) : (s.withPending es).work = s.work := rfl
@[simp] theorem withPending_pending (es : List HostEvent) : (s.withPending es).pending = es := rfl
@[simp] theorem withPending_observed (es : List HostEvent) : (s.withPending es).observed = s.observed := rfl
@[simp] theorem withPending_epoch (es : List HostEvent) : (s.withPending es).epoch = s.epoch := rfl
@[simp] theorem withPending_draws (es : List HostEvent) : (s.withPending es).draws = s.draws := rfl
@[simp] theorem withPending_unit (es : List HostEvent) : (s.withPending es).unit = s.unit := rfl

@[simp] theorem resetEvent_tables : s.resetEvent.tables = s.tables := by simp only [State.resetEvent, State.afterReset]
@[simp] theorem resetEvent_rk : s.resetEvent.rk = Vector.ofFn fun r => Config.unspecifiedRoundKey s.unit (s.epoch + 1) r.val := by simp only [State.resetEvent, State.afterReset]
@[simp] theorem resetEvent_ksv : s.resetEvent.ksv = false := by simp only [State.resetEvent, State.afterReset]
@[simp] theorem resetEvent_vrk : s.resetEvent.vrk = Vector.ofFn fun r => Config.unspecifiedVectorRoundKey s.unit (s.epoch + 1) r.val := by simp only [State.resetEvent, State.afterReset]
@[simp] theorem resetEvent_vksv : s.resetEvent.vksv = false := by simp only [State.resetEvent, State.afterReset]
@[simp] theorem resetEvent_mem : s.resetEvent.mem = [] := by simp only [State.resetEvent, State.afterReset]
@[simp] theorem resetEvent_err : s.resetEvent.err = 0#4 := by simp only [State.resetEvent, State.afterReset]
@[simp] theorem resetEvent_errcmd : s.resetEvent.errcmd = 0#32 := by simp only [State.resetEvent, State.afterReset]
@[simp] theorem resetEvent_work : s.resetEvent.work = unspecifiedWork s.unit (s.draws + 1) := by simp only [State.resetEvent, State.afterReset]
@[simp] theorem resetEvent_pending : s.resetEvent.pending = s.pending := by simp only [State.resetEvent, State.afterReset]
@[simp] theorem resetEvent_observed : s.resetEvent.observed = s.observed := by simp only [State.resetEvent, State.afterReset]
@[simp] theorem resetEvent_epoch : s.resetEvent.epoch = s.epoch + 1 := by simp only [State.resetEvent, State.afterReset]
@[simp] theorem resetEvent_draws : s.resetEvent.draws = s.draws + 1 := by simp only [State.resetEvent, State.afterReset]
@[simp] theorem resetEvent_unit : s.resetEvent.unit = s.unit := by simp only [State.resetEvent, State.afterReset]

@[simp] theorem resetOf_tables (unit : Nat) : (State.resetOf unit).tables = buildTables configuredSBox := by simp only [State.resetOf, State.afterReset]
@[simp] theorem resetOf_rk (unit : Nat) : (State.resetOf unit).rk = Vector.ofFn fun r => Config.unspecifiedRoundKey unit 0 r.val := by simp only [State.resetOf, State.afterReset]
@[simp] theorem resetOf_ksv (unit : Nat) : (State.resetOf unit).ksv = false := by simp only [State.resetOf, State.afterReset]
@[simp] theorem resetOf_vrk (unit : Nat) : (State.resetOf unit).vrk = Vector.ofFn fun r => Config.unspecifiedVectorRoundKey unit 0 r.val := by simp only [State.resetOf, State.afterReset]
@[simp] theorem resetOf_vksv (unit : Nat) : (State.resetOf unit).vksv = false := by simp only [State.resetOf, State.afterReset]
@[simp] theorem resetOf_mem (unit : Nat) : (State.resetOf unit).mem = [] := by simp only [State.resetOf, State.afterReset]
@[simp] theorem resetOf_err (unit : Nat) : (State.resetOf unit).err = 0#4 := by simp only [State.resetOf, State.afterReset]
@[simp] theorem resetOf_errcmd (unit : Nat) : (State.resetOf unit).errcmd = 0#32 := by simp only [State.resetOf, State.afterReset]
@[simp] theorem resetOf_work (unit : Nat) : (State.resetOf unit).work = unspecifiedWork unit 0 := by simp only [State.resetOf, State.afterReset]
@[simp] theorem resetOf_pending (unit : Nat) : (State.resetOf unit).pending = [] := by simp only [State.resetOf, State.afterReset]
@[simp] theorem resetOf_observed (unit : Nat) : (State.resetOf unit).observed = [] := by simp only [State.resetOf, State.afterReset]
@[simp] theorem resetOf_epoch (unit : Nat) : (State.resetOf unit).epoch = 0 := by simp only [State.resetOf, State.afterReset]
@[simp] theorem resetOf_draws (unit : Nat) : (State.resetOf unit).draws = 0 := by simp only [State.resetOf, State.afterReset]
@[simp] theorem resetOf_unit (unit : Nat) : (State.resetOf unit).unit = unit := by simp only [State.resetOf, State.afterReset]

theorem reset_eq_resetOf : State.reset = State.resetOf 0 := rfl

end Sys2Proof.Machine
end

