-- ==== Sys2Proof/Laws/Ops.lean ====
section
/-! SUPPORT. What each shared operation can do, said once: the checks in front of a command, byte stores, the byte view. -/

namespace Sys2Proof.Machine

/-- The byte view depends on the written bytes, the reset number and the instance only. -/
theorem byteAt_congr {s t : State} (hm : t.mem = s.mem) (he : t.epoch = s.epoch) (hu : t.unit = s.unit) (a : Nat) : t.byteAt a = s.byteAt a := by
  rw [State.byteAt, State.byteAt, hm, he, hu]

/-- Read after a store, inside and outside the bytes stored. -/
theorem byteAt_store (s : State) (a x : Nat) (bs : List Byte) :
    (s.store a bs).byteAt x = if h : a ≤ x ∧ x - a < bs.length then bs[x - a] else s.byteAt x := by
  rw [State.byteAt, store_mem, store_epoch, store_unit, Memory.lookup_writeBytes]
  split_ifs <;> rfl

theorem byteAt_store_of_outside (s : State) {a x : Nat} {bs : List Byte} (h : ¬ (a ≤ x ∧ x < a + bs.length)) :
    (s.store a bs).byteAt x = s.byteAt x := by
  rw [byteAt_store, dif_neg (by omega)]

theorem byteAt_store_of_inside (s : State) {a i : Nat} {bs : List Byte} (h : i < bs.length) :
    (s.store a bs).byteAt (a + i) = bs[i] := by
  rw [byteAt_store, dif_pos (by omega)]
  simp only [Nat.add_sub_cancel_left]

theorem storeBuf_eq_store (s : State) (b : Buffer) (o : Nat) (bs : List Byte) : s.storeBuf b o bs = s.store (b.base + o) bs :=
  rfl

theorem putDout_eq_store (s : State) (o : Nat) (w : Word) :
    s.putDout o w = s.store (Buffer.dout.base + o) (be32Bytes w) := rfl

@[simp] theorem byteAt_releaseWork (s : State) (a : Nat) : s.releaseWork.byteAt a = s.byteAt a := rfl
@[simp] theorem byteAt_raise (s : State) (f : EngineFault) (w : Word) (a : Nat) : (s.raise f w).byteAt a = s.byteAt a := rfl
@[simp] theorem byteAt_clearFault (s : State) (a : Nat) : s.clearFault.byteAt a = s.byteAt a := rfl
@[simp] theorem byteAt_setScalarSchedule (s : State) (k : Vector Word 32) (a : Nat) :
    (s.setScalarSchedule k).byteAt a = s.byteAt a := rfl
@[simp] theorem byteAt_setVectorSchedule (s : State) (k : Vector VReg 32) (a : Nat) :
    (s.setVectorSchedule k).byteAt a = s.byteAt a := rfl
@[simp] theorem byteAt_observe (s : State) (r : Reading) (a : Nat) : (s.observe r).byteAt a = s.byteAt a := rfl
@[simp] theorem byteAt_withPending (s : State) (es : List HostEvent) (a : Nat) :
    (s.withPending es).byteAt a = s.byteAt a := rfl

theorem buf_eq_byteAt (s : State) (b : Buffer) (i : Nat) : s.buf b i = s.byteAt (b.base + i) := rfl

@[simp] theorem keyin_base : Buffer.keyin.base = 0x20 := rfl
@[simp] theorem din_base : Buffer.din.base = 0x40 := rfl
@[simp] theorem dout_base : Buffer.dout.base = 0x80 := rfl
@[simp] theorem keyin_size : Buffer.keyin.size = 32 := rfl
@[simp] theorem din_size : Buffer.din.size = 64 := rfl
@[simp] theorem dout_size : Buffer.dout.size = 64 := rfl

/-- The halted condition is a non-zero ERR. -/
theorem halted_iff (s : State) : s.halted = true ↔ s.err ≠ 0#4 := by simp [State.halted]

/-- While halted a command does nothing. -/
theorem runChecked_of_halted {i : Instr} {body : State → State} {s : State} (h : s.err ≠ 0#4) : runChecked i body s = s := by
  rw [runChecked, if_pos ((halted_iff s).mpr h)]

/-- A wrong LEN faults. -/
theorem runChecked_of_len {i : Instr} {body : State → State} {s : State} (h : s.err = 0#4) (hl : i.len ≠ i.reqLen) :
    runChecked i body s = s.raise .sizeMismatch (encode i) := by
  rw [runChecked, if_neg (by simp [halted_iff, h]), if_pos hl]

/-- A missing schedule faults. -/
theorem runChecked_of_schedule {i : Instr} {body : State → State} {s : State} (h : s.err = 0#4) (hl : i.len = i.reqLen)
    (hs : s.hasSchedule i = false) : runChecked i body s = s.raise .noSchedule (encode i) := by
  rw [runChecked, if_neg (by simp [halted_iff, h]), if_neg (by simp [hl]), if_pos (by simp [hs])]

/-- With every check passed the command runs. -/
theorem runChecked_of_ok {i : Instr} {body : State → State} {s : State} (h : s.err = 0#4) (hl : i.len = i.reqLen)
    (hs : s.hasSchedule i = true) : runChecked i body s = body s := by
  rw [runChecked, if_neg (by simp [halted_iff, h]), if_neg (by simp [hl]), if_neg (by simp [hs])]

/-- Everything the checks can answer. -/
theorem runChecked_cases (i : Instr) (body : State → State) (s : State) :
    (s.err ≠ 0#4 ∧ runChecked i body s = s) ∨
    (s.err = 0#4 ∧ i.len ≠ i.reqLen ∧ runChecked i body s = s.raise .sizeMismatch (encode i)) ∨
    (s.err = 0#4 ∧ i.len = i.reqLen ∧ s.hasSchedule i = false ∧ runChecked i body s = s.raise .noSchedule (encode i)) ∨
    (s.err = 0#4 ∧ i.len = i.reqLen ∧ s.hasSchedule i = true ∧ runChecked i body s = body s) := by
  by_cases h : s.err = 0#4
  · by_cases hl : i.len = i.reqLen
    · cases hs : s.hasSchedule i
      · exact .inr (.inr (.inl ⟨h, hl, rfl, runChecked_of_schedule h hl hs⟩))
      · exact .inr (.inr (.inr ⟨h, hl, rfl, runChecked_of_ok h hl hs⟩))
    · exact .inr (.inl ⟨h, hl, runChecked_of_len h hl⟩)
  · exact .inl ⟨h, runChecked_of_halted h⟩

/-- The effect of a command whose checks passed. -/
def commandBody : Instr → State → State
  | .setkey _ => setkeyBody
  | .setkeyv _ => setkeyvBody
  | .enc1 _ => enc1Body
  | .enc8 _ => enc8Body
  | .rndfn _ => rndfnBody
  | .vrndfn _ => vrndfnBody

/-- Every command is its effect behind the shared checks. -/
theorem exec_eq_runChecked (i : Instr) (s : State) : exec i s = .next (runChecked i (commandBody i) s) := by
  cases i <;> rfl

/-- A CMD write of a word that is no command. -/
theorem illegalWrite_of_halted {w : Word} {s : State} (h : s.err ≠ 0#4) : illegalWrite w s = s := by
  rw [illegalWrite, if_pos ((halted_iff s).mpr h)]

theorem illegalWrite_of_running {w : Word} {s : State} (h : s.err = 0#4) : illegalWrite w s = s.raise .illegalCommand w := by
  rw [illegalWrite, if_neg (by simp [halted_iff, h])]

end Sys2Proof.Machine
end

