-- ==== Sys2Proof/Laws/Commands.lean ====
section
/-! SUPPORT. What the effect of each command leaves in each field of the state, and which bytes it stores. -/

namespace Sys2Proof.Machine

variable (s : State)

@[simp] theorem setkeyBody_tables : (setkeyBody s).tables = s.tables := by simp only [setkeyBody, setScalarSchedule_tables]
@[simp] theorem setkeyBody_rk : (setkeyBody s).rk = kexpand s.keyWord := by simp only [setkeyBody, setScalarSchedule_rk]
@[simp] theorem setkeyBody_ksv : (setkeyBody s).ksv = true := by simp only [setkeyBody, setScalarSchedule_ksv]
@[simp] theorem setkeyBody_vrk : (setkeyBody s).vrk = s.vrk := by simp only [setkeyBody, setScalarSchedule_vrk]
@[simp] theorem setkeyBody_vksv : (setkeyBody s).vksv = s.vksv := by simp only [setkeyBody, setScalarSchedule_vksv]
@[simp] theorem setkeyBody_mem : (setkeyBody s).mem = s.mem := by simp only [setkeyBody, setScalarSchedule_mem]
@[simp] theorem setkeyBody_err : (setkeyBody s).err = s.err := by simp only [setkeyBody, setScalarSchedule_err]
@[simp] theorem setkeyBody_errcmd : (setkeyBody s).errcmd = s.errcmd := by simp only [setkeyBody, setScalarSchedule_errcmd]
@[simp] theorem setkeyBody_work : (setkeyBody s).work = s.work := by simp only [setkeyBody, setScalarSchedule_work]
@[simp] theorem setkeyBody_pending : (setkeyBody s).pending = s.pending := by simp only [setkeyBody, setScalarSchedule_pending]
@[simp] theorem setkeyBody_observed : (setkeyBody s).observed = s.observed := by simp only [setkeyBody, setScalarSchedule_observed]
@[simp] theorem setkeyBody_epoch : (setkeyBody s).epoch = s.epoch := by simp only [setkeyBody, setScalarSchedule_epoch]
@[simp] theorem setkeyBody_draws : (setkeyBody s).draws = s.draws := by simp only [setkeyBody, setScalarSchedule_draws]
@[simp] theorem setkeyBody_unit : (setkeyBody s).unit = s.unit := by simp only [setkeyBody, setScalarSchedule_unit]

@[simp] theorem setkeyvBody_tables : (setkeyvBody s).tables = s.tables := by simp only [setkeyvBody, setVectorSchedule_tables]
@[simp] theorem setkeyvBody_rk : (setkeyvBody s).rk = s.rk := by simp only [setkeyvBody, setVectorSchedule_rk]
@[simp] theorem setkeyvBody_ksv : (setkeyvBody s).ksv = s.ksv := by simp only [setkeyvBody, setVectorSchedule_ksv]
@[simp] theorem setkeyvBody_vrk : (setkeyvBody s).vrk = kexpand8 s.keyWord := by simp only [setkeyvBody, setVectorSchedule_vrk]
@[simp] theorem setkeyvBody_vksv : (setkeyvBody s).vksv = true := by simp only [setkeyvBody, setVectorSchedule_vksv]
@[simp] theorem setkeyvBody_mem : (setkeyvBody s).mem = s.mem := by simp only [setkeyvBody, setVectorSchedule_mem]
@[simp] theorem setkeyvBody_err : (setkeyvBody s).err = s.err := by simp only [setkeyvBody, setVectorSchedule_err]
@[simp] theorem setkeyvBody_errcmd : (setkeyvBody s).errcmd = s.errcmd := by simp only [setkeyvBody, setVectorSchedule_errcmd]
@[simp] theorem setkeyvBody_work : (setkeyvBody s).work = s.work := by simp only [setkeyvBody, setVectorSchedule_work]
@[simp] theorem setkeyvBody_pending : (setkeyvBody s).pending = s.pending := by simp only [setkeyvBody, setVectorSchedule_pending]
@[simp] theorem setkeyvBody_observed : (setkeyvBody s).observed = s.observed := by simp only [setkeyvBody, setVectorSchedule_observed]
@[simp] theorem setkeyvBody_epoch : (setkeyvBody s).epoch = s.epoch := by simp only [setkeyvBody, setVectorSchedule_epoch]
@[simp] theorem setkeyvBody_draws : (setkeyvBody s).draws = s.draws := by simp only [setkeyvBody, setVectorSchedule_draws]
@[simp] theorem setkeyvBody_unit : (setkeyvBody s).unit = s.unit := by simp only [setkeyvBody, setVectorSchedule_unit]

@[simp] theorem rndfnBody_tables : (rndfnBody s).tables = s.tables := by simp only [rndfnBody, putDout_tables]
@[simp] theorem rndfnBody_rk : (rndfnBody s).rk = s.rk := by simp only [rndfnBody, putDout_rk]
@[simp] theorem rndfnBody_ksv : (rndfnBody s).ksv = s.ksv := by simp only [rndfnBody, putDout_ksv]
@[simp] theorem rndfnBody_vrk : (rndfnBody s).vrk = s.vrk := by simp only [rndfnBody, putDout_vrk]
@[simp] theorem rndfnBody_vksv : (rndfnBody s).vksv = s.vksv := by simp only [rndfnBody, putDout_vksv]
@[simp] theorem rndfnBody_err : (rndfnBody s).err = s.err := by simp only [rndfnBody, putDout_err]
@[simp] theorem rndfnBody_errcmd : (rndfnBody s).errcmd = s.errcmd := by simp only [rndfnBody, putDout_errcmd]
@[simp] theorem rndfnBody_work : (rndfnBody s).work = s.work := by simp only [rndfnBody, putDout_work]
@[simp] theorem rndfnBody_pending : (rndfnBody s).pending = s.pending := by simp only [rndfnBody, putDout_pending]
@[simp] theorem rndfnBody_observed : (rndfnBody s).observed = s.observed := by simp only [rndfnBody, putDout_observed]
@[simp] theorem rndfnBody_epoch : (rndfnBody s).epoch = s.epoch := by simp only [rndfnBody, putDout_epoch]
@[simp] theorem rndfnBody_draws : (rndfnBody s).draws = s.draws := by simp only [rndfnBody, putDout_draws]
@[simp] theorem rndfnBody_unit : (rndfnBody s).unit = s.unit := by simp only [rndfnBody, putDout_unit]

@[simp] theorem vrndfnBody_tables : (vrndfnBody s).tables = s.tables := by simp only [vrndfnBody, releaseWork_tables, storeBuf_tables]
@[simp] theorem vrndfnBody_rk : (vrndfnBody s).rk = s.rk := by simp only [vrndfnBody, releaseWork_rk, storeBuf_rk]
@[simp] theorem vrndfnBody_ksv : (vrndfnBody s).ksv = s.ksv := by simp only [vrndfnBody, releaseWork_ksv, storeBuf_ksv]
@[simp] theorem vrndfnBody_vrk : (vrndfnBody s).vrk = s.vrk := by simp only [vrndfnBody, releaseWork_vrk, storeBuf_vrk]
@[simp] theorem vrndfnBody_vksv : (vrndfnBody s).vksv = s.vksv := by simp only [vrndfnBody, releaseWork_vksv, storeBuf_vksv]
@[simp] theorem vrndfnBody_err : (vrndfnBody s).err = s.err := by simp only [vrndfnBody, releaseWork_err, storeBuf_err]
@[simp] theorem vrndfnBody_errcmd : (vrndfnBody s).errcmd = s.errcmd := by simp only [vrndfnBody, releaseWork_errcmd, storeBuf_errcmd]
@[simp] theorem vrndfnBody_work : (vrndfnBody s).work = unspecifiedWork s.unit (s.draws + 1) := by simp only [vrndfnBody, releaseWork_work, storeBuf_unit, storeBuf_draws]
@[simp] theorem vrndfnBody_pending : (vrndfnBody s).pending = s.pending := by simp only [vrndfnBody, releaseWork_pending, storeBuf_pending]
@[simp] theorem vrndfnBody_observed : (vrndfnBody s).observed = s.observed := by simp only [vrndfnBody, releaseWork_observed, storeBuf_observed]
@[simp] theorem vrndfnBody_epoch : (vrndfnBody s).epoch = s.epoch := by simp only [vrndfnBody, releaseWork_epoch, storeBuf_epoch]
@[simp] theorem vrndfnBody_draws : (vrndfnBody s).draws = s.draws + 1 := by simp only [vrndfnBody, releaseWork_draws, storeBuf_draws]
@[simp] theorem vrndfnBody_unit : (vrndfnBody s).unit = s.unit := by simp only [vrndfnBody, releaseWork_unit, storeBuf_unit]

@[simp] theorem enc1Body_tables : (enc1Body s).tables = s.tables := by simp only [enc1Body, releaseWork_tables, putDout_tables]
@[simp] theorem enc1Body_rk : (enc1Body s).rk = s.rk := by simp only [enc1Body, releaseWork_rk, putDout_rk]
@[simp] theorem enc1Body_ksv : (enc1Body s).ksv = s.ksv := by simp only [enc1Body, releaseWork_ksv, putDout_ksv]
@[simp] theorem enc1Body_vrk : (enc1Body s).vrk = s.vrk := by simp only [enc1Body, releaseWork_vrk, putDout_vrk]
@[simp] theorem enc1Body_vksv : (enc1Body s).vksv = s.vksv := by simp only [enc1Body, releaseWork_vksv, putDout_vksv]
@[simp] theorem enc1Body_err : (enc1Body s).err = s.err := by simp only [enc1Body, releaseWork_err, putDout_err]
@[simp] theorem enc1Body_errcmd : (enc1Body s).errcmd = s.errcmd := by simp only [enc1Body, releaseWork_errcmd, putDout_errcmd]
@[simp] theorem enc1Body_work : (enc1Body s).work = unspecifiedWork s.unit (s.draws + 1) := by simp only [enc1Body, releaseWork_work, putDout_unit, putDout_draws]
@[simp] theorem enc1Body_pending : (enc1Body s).pending = s.pending := by simp only [enc1Body, releaseWork_pending, putDout_pending]
@[simp] theorem enc1Body_observed : (enc1Body s).observed = s.observed := by simp only [enc1Body, releaseWork_observed, putDout_observed]
@[simp] theorem enc1Body_epoch : (enc1Body s).epoch = s.epoch := by simp only [enc1Body, releaseWork_epoch, putDout_epoch]
@[simp] theorem enc1Body_draws : (enc1Body s).draws = s.draws + 1 := by simp only [enc1Body, releaseWork_draws, putDout_draws]
@[simp] theorem enc1Body_unit : (enc1Body s).unit = s.unit := by simp only [enc1Body, releaseWork_unit, putDout_unit]

@[simp] theorem enc8Body_tables : (enc8Body s).tables = s.tables := by simp only [enc8Body, State.store8, releaseWork_tables, storeBuf_tables]
@[simp] theorem enc8Body_rk : (enc8Body s).rk = s.rk := by simp only [enc8Body, State.store8, releaseWork_rk, storeBuf_rk]
@[simp] theorem enc8Body_ksv : (enc8Body s).ksv = s.ksv := by simp only [enc8Body, State.store8, releaseWork_ksv, storeBuf_ksv]
@[simp] theorem enc8Body_vrk : (enc8Body s).vrk = s.vrk := by simp only [enc8Body, State.store8, releaseWork_vrk, storeBuf_vrk]
@[simp] theorem enc8Body_vksv : (enc8Body s).vksv = s.vksv := by simp only [enc8Body, State.store8, releaseWork_vksv, storeBuf_vksv]
@[simp] theorem enc8Body_err : (enc8Body s).err = s.err := by simp only [enc8Body, State.store8, releaseWork_err, storeBuf_err]
@[simp] theorem enc8Body_errcmd : (enc8Body s).errcmd = s.errcmd := by simp only [enc8Body, State.store8, releaseWork_errcmd, storeBuf_errcmd]
@[simp] theorem enc8Body_work : (enc8Body s).work = unspecifiedWork s.unit (s.draws + 1) := by simp only [enc8Body, State.store8, releaseWork_work, storeBuf_unit, storeBuf_draws]
@[simp] theorem enc8Body_pending : (enc8Body s).pending = s.pending := by simp only [enc8Body, State.store8, releaseWork_pending, storeBuf_pending]
@[simp] theorem enc8Body_observed : (enc8Body s).observed = s.observed := by simp only [enc8Body, State.store8, releaseWork_observed, storeBuf_observed]
@[simp] theorem enc8Body_epoch : (enc8Body s).epoch = s.epoch := by simp only [enc8Body, State.store8, releaseWork_epoch, storeBuf_epoch]
@[simp] theorem enc8Body_draws : (enc8Body s).draws = s.draws + 1 := by simp only [enc8Body, State.store8, releaseWork_draws, storeBuf_draws]
@[simp] theorem enc8Body_unit : (enc8Body s).unit = s.unit := by simp only [enc8Body, State.store8, releaseWork_unit, storeBuf_unit]

@[simp] theorem commandBody_tables (i : Instr) : (commandBody i s).tables = s.tables := by
  cases i <;> simp only [commandBody, setkeyBody_tables, setkeyvBody_tables, rndfnBody_tables, vrndfnBody_tables, enc1Body_tables, enc8Body_tables]
@[simp] theorem commandBody_err (i : Instr) : (commandBody i s).err = s.err := by
  cases i <;> simp only [commandBody, setkeyBody_err, setkeyvBody_err, rndfnBody_err, vrndfnBody_err, enc1Body_err, enc8Body_err]
@[simp] theorem commandBody_errcmd (i : Instr) : (commandBody i s).errcmd = s.errcmd := by
  cases i <;> simp only [commandBody, setkeyBody_errcmd, setkeyvBody_errcmd, rndfnBody_errcmd, vrndfnBody_errcmd, enc1Body_errcmd, enc8Body_errcmd]
@[simp] theorem commandBody_pending (i : Instr) : (commandBody i s).pending = s.pending := by
  cases i <;> simp only [commandBody, setkeyBody_pending, setkeyvBody_pending, rndfnBody_pending, vrndfnBody_pending, enc1Body_pending, enc8Body_pending]
@[simp] theorem commandBody_observed (i : Instr) : (commandBody i s).observed = s.observed := by
  cases i <;> simp only [commandBody, setkeyBody_observed, setkeyvBody_observed, rndfnBody_observed, vrndfnBody_observed, enc1Body_observed, enc8Body_observed]
@[simp] theorem commandBody_epoch (i : Instr) : (commandBody i s).epoch = s.epoch := by
  cases i <;> simp only [commandBody, setkeyBody_epoch, setkeyvBody_epoch, rndfnBody_epoch, vrndfnBody_epoch, enc1Body_epoch, enc8Body_epoch]
@[simp] theorem commandBody_unit (i : Instr) : (commandBody i s).unit = s.unit := by
  cases i <;> simp only [commandBody, setkeyBody_unit, setkeyvBody_unit, rndfnBody_unit, vrndfnBody_unit, enc1Body_unit, enc8Body_unit]

/-! ### The bytes stored -/

/-- Reading after `PutBE32(DOUT, o, w)`, at every window offset. -/
theorem byteAt_putDout (o x : Nat) (w : Word) : (s.putDout o w).byteAt x =
    if 0x80 + o ≤ x ∧ x < 0x80 + o + 4 then byteOf w (3 - (x - (0x80 + o))) else s.byteAt x := by
  rw [putDout_eq_store, byteAt_store, dout_base]
  by_cases h : 0x80 + o ≤ x ∧ x < 0x80 + o + 4
  · have hlt : x - (0x80 + o) < (be32Bytes w).length := by rw [be32Bytes_length]; omega
    rw [dif_pos ⟨h.1, hlt⟩, if_pos h, be32Bytes_getElem]
  · rw [dif_neg (by rw [be32Bytes_length]; omega), if_neg h]

/-- Reading after `VSTORE(DOUT, o, VBSWAP32(V))`, at every window offset: the lanes in order, each big-endian. -/
theorem byteAt_storeBuf_vstore (o x : Nat) (v : VReg) : (s.storeBuf .dout o (vstoreBytes (vbswap32 v))).byteAt x =
    if 0x80 + o ≤ x ∧ x < 0x80 + o + 32 then byteOf (lane v ((x - (0x80 + o)) / 4)) (3 - (x - (0x80 + o)) % 4)
    else s.byteAt x := by
  rw [storeBuf_eq_store, byteAt_store, dout_base]
  by_cases h : 0x80 + o ≤ x ∧ x < 0x80 + o + 32
  · have hlt : x - (0x80 + o) < (vstoreBytes (vbswap32 v)).length := by rw [vstoreBytes_length]; omega
    rw [dif_pos ⟨h.1, hlt⟩, if_pos h, vstoreBytes_vbswap32_getElem]
  · rw [dif_neg (by rw [vstoreBytes_length]; omega), if_neg h]

@[simp] theorem byteAt_setkeyBody (x : Nat) : (setkeyBody s).byteAt x = s.byteAt x := by
  rw [setkeyBody, byteAt_setScalarSchedule]

@[simp] theorem byteAt_setkeyvBody (x : Nat) : (setkeyvBody s).byteAt x = s.byteAt x := by
  rw [setkeyvBody, byteAt_setVectorSchedule]

/-- The working registers are no part of the byte view. -/
theorem byteAt_withWork (w : Work) (x : Nat) : ({ s with work := w } : State).byteAt x = s.byteAt x := rfl

theorem byteAt_rndfnBody (x : Nat) : (rndfnBody s).byteAt x =
    if 0x80 ≤ x ∧ x < 0x84 then byteOf (roundF s.tables (s.dinWord 0) (s.dinWord 4)) (3 - (x - 0x80)) else s.byteAt x := by
  rw [rndfnBody, byteAt_putDout]

theorem byteAt_vrndfnBody (x : Nat) : (vrndfnBody s).byteAt x =
    if 0x80 ≤ x ∧ x < 0xA0 then
      byteOf (lane (vrndfnWork s.tables (s.buf .din) s.work).vtmp ((x - 0x80) / 4)) (3 - (x - 0x80) % 4)
    else s.byteAt x := by
  rw [vrndfnBody, byteAt_releaseWork, byteAt_storeBuf_vstore, byteAt_withWork]

theorem byteAt_enc1Body (x : Nat) : (enc1Body s).byteAt x =
    if 0x84 ≤ x ∧ x < 0x88 then
      byteOf (enc1Work s.tables s.rk (s.dinWord 0) (s.dinWord 4) s.work).n2 (3 - (x - 0x84))
    else if 0x80 ≤ x ∧ x < 0x84 then
      byteOf (enc1Work s.tables s.rk (s.dinWord 0) (s.dinWord 4) s.work).n1 (3 - (x - 0x80))
    else s.byteAt x := by
  rw [enc1Body, byteAt_releaseWork, byteAt_putDout, byteAt_putDout, byteAt_withWork]

/-- The exit sequence: word n of the block set, big-endian, at DOUT[4n]. -/
theorem byteAt_store8 (w : Work) (x : Nat) : (s.store8 (unload8 w)).byteAt x =
    if 0x80 ≤ x ∧ x < 0xC0 then
      byteOf (interleavedWord w.vn1 w.vn2 ((x - 0x80) / 4)) (3 - (x - 0x80) % 4)
    else s.byteAt x := by
  rw [State.store8, unload8]
  simp only
  rw [byteAt_storeBuf_vstore, byteAt_storeBuf_vstore, byteAt_withWork]
  by_cases h : 0x80 ≤ x ∧ x < 0xC0
  · rw [if_pos h]
    by_cases h1 : x < 0xA0
    · rw [if_neg (by omega), if_pos (by omega), lane_vint_fst _ _ (by omega)]
    · rw [if_pos (by omega), lane_vint_snd _ _ (by omega)]
      have e1 : (x - (0x80 + 32)) / 4 + 8 = (x - 0x80) / 4 := by omega
      have e2 : (x - (0x80 + 32)) % 4 = (x - 0x80) % 4 := by omega
      rw [e1, e2]
  · rw [if_neg h, if_neg (by omega), if_neg (by omega)]

/-- The working registers of ENC8 before the exit sequence. -/
theorem byteAt_enc8Body (x : Nat) : (enc8Body s).byteAt x =
    let w := vectorLast s.tables s.vrk (vectorRounds s.tables s.vrk 31 { load8 (s.buf .din) s.work with rc := 0#6 })
    if 0x80 ≤ x ∧ x < 0xC0 then byteOf (interleavedWord w.vn1 w.vn2 ((x - 0x80) / 4)) (3 - (x - 0x80) % 4)
    else s.byteAt x := by
  rw [enc8Body, byteAt_releaseWork, enc8Work, byteAt_store8]

end Sys2Proof.Machine
end

