-- ==== Sys2Proof/Laws/Encoding.lean ====
section
/-! SUPPORT. The fields of a command word and of an encoding, and the opcode map read backwards. -/

namespace Sys2Proof
open BitVec

theorem rsvField_append (r : BitVec 16) (l o : Byte) : rsvField (r ++ l ++ o) = r := by
  ext j hj
  simp only [rsvField, getElem_extractLsb', getLsbD_append]
  rw [if_neg (by omega), if_neg (by omega), ← getLsbD_eq_getElem]
  exact congrArg _ (by omega)

theorem lenField_append (r : BitVec 16) (l o : Byte) : lenField (r ++ l ++ o) = l := by
  ext j hj
  simp only [lenField, getElem_extractLsb', getLsbD_append]
  rw [if_neg (by omega), if_pos (by omega), ← getLsbD_eq_getElem]
  exact congrArg _ (by omega)

theorem opcField_append (r : BitVec 16) (l o : Byte) : opcField (r ++ l ++ o) = o := by
  ext j hj
  simp only [opcField, getElem_extractLsb', getLsbD_append]
  rw [if_pos (by omega), ← getLsbD_eq_getElem]
  exact congrArg _ (by omega)

/-- A word is its three fields (30_encoding.md R81). -/
theorem word_of_fields (w : Word) : rsvField w ++ lenField w ++ opcField w = w := by
  ext j hj
  simp only [rsvField, lenField, opcField, getElem_append, getElem_extractLsb']
  split_ifs <;> (rw [← getLsbD_eq_getElem]; exact congrArg _ (by omega))

@[simp] theorem rsvField_encode (i : Instr) : rsvField (encode i) = 0#16 := rsvField_append _ _ _

@[simp] theorem opcField_encode (i : Instr) : opcField (encode i) = i.opc := opcField_append _ _ _

@[simp] theorem lenField_encode (i : Instr) : lenField (encode i) = BitVec.ofNat 8 i.len := lenField_append _ _ _

/-- The opcode map, both ways. -/
theorem commandOfOpc_eq_some {o : Byte} {n : Nat} {i : Instr} : commandOfOpc o n = some i ↔ i.opc = o ∧ i.len = n := by
  constructor
  · intro h
    unfold commandOfOpc at h
    split_ifs at h <;> simp only [Option.some.injEq] at h <;> subst h <;>
      exact ⟨by simp only [Instr.opc, *], rfl⟩
  · rintro ⟨rfl, rfl⟩
    cases i <;> simp [commandOfOpc, Instr.opc, Instr.len]

/-- What a word must be to decode to a command. -/
theorem decode_eq_command {w : Word} {i : Instr} :
    decode w = .command i ↔ rsvField w = 0#16 ∧ opcField w = i.opc ∧ (lenField w).toNat = i.len := by
  rw [decode]
  by_cases h : rsvField w = 0#16
  · rw [if_neg (fun hn => hn h)]
    cases hc : commandOfOpc (opcField w) (lenField w).toNat with
    | none =>
      refine ⟨fun hd => (nomatch hd), fun ⟨_, h1, h2⟩ => ?_⟩
      rw [h1, h2, commandOfOpc_eq_some.mpr ⟨rfl, rfl⟩] at hc
      cases hc
    | some j =>
      obtain ⟨h1, h2⟩ := commandOfOpc_eq_some.mp hc
      simp only [Decoded.command.injEq, ← h1, ← h2, h, true_and]
      constructor
      · rintro rfl
        exact ⟨rfl, rfl⟩
      · rintro ⟨h3, h4⟩
        have := commandOfOpc_eq_some.mpr ⟨h3.symm, h4.symm⟩
        rw [commandOfOpc_eq_some.mpr ⟨rfl, rfl⟩] at this
        exact Option.some.inj this
  · rw [if_pos h]
    exact ⟨fun hd => (nomatch hd), fun hd => absurd hd.1 h⟩

/-- What a word must be to be rejected. -/
theorem decode_rejected_iff {w : Word} :
    (∃ e, decode w = .rejected e) ↔ rsvField w ≠ 0#16 ∨ opcField w = 0#8 ∨ 7 ≤ (opcField w).toNat := by
  by_cases h : rsvField w = 0#16
  · have hne : opcField w = 0#8 ∨ 7 ≤ (opcField w).toNat ↔ commandOfOpc (opcField w) (lenField w).toNat = none := by
      generalize opcField w = o
      unfold commandOfOpc
      split_ifs with h1 h2 h3 h4 h5 h6
      all_goals first
        | (subst_vars; simp; done)
        | (simp only [iff_true, ← BitVec.toNat_inj, BitVec.toNat_ofNat] at *; omega)
    rw [hne]
    constructor
    · rintro ⟨e, he⟩
      cases hc : commandOfOpc (opcField w) (lenField w).toNat with
      | none => exact .inr rfl
      | some j => simp [decode, h, hc] at he
    · rintro (hn | hn)
      · exact absurd h hn
      · exact ⟨.unknownOpcode, by simp [decode, h, hn]⟩
  · exact ⟨fun _ => .inl h, fun _ => ⟨.reservedBits, by rw [decode, if_pos h]⟩⟩

end Sys2Proof
end

