-- ==== Sys2Proof/Laws/Rounds.lean ====
section
/-! SUPPORT. Laws of the two Feistel loops: the round counter, and the loop unrolled from its far end. -/

namespace Sys2Proof.Machine

/-- The loop with its last round outermost. -/
theorem scalarRounds_succ (t : TableBank) (rk : Vector Word 32) (n : Nat) (w : Work) :
    scalarRounds t rk (n + 1) w = scalarRound t rk (scalarRounds t rk n w) := by
  induction n generalizing w with
  | zero => rfl
  | succ n ih => exact ih (scalarRound t rk w)

theorem vectorRounds_succ (t : TableBank) (vrk : Vector VReg 32) (n : Nat) (w : Work) :
    vectorRounds t vrk (n + 1) w = vectorRound t vrk (vectorRounds t vrk n w) := by
  induction n generalizing w with
  | zero => rfl
  | succ n ih => exact ih (vectorRound t vrk w)

/-- After n rounds RC holds n (10_state.md R27). -/
theorem scalarRounds_rc (t : TableBank) (rk : Vector Word 32) {n : Nat} (hn : n < 64) {w : Work} (hw : w.rc = 0#6) :
    (scalarRounds t rk n w).rc.toNat = n := by
  induction n with
  | zero => rw [scalarRounds, hw]; rfl
  | succ n ih =>
    have hi := ih (by omega)
    rw [scalarRounds_succ]
    simp only [scalarRound, BitVec.toNat_add, hi]
    exact Nat.mod_eq_of_lt (by simpa using hn)

theorem vectorRounds_rc (t : TableBank) (vrk : Vector VReg 32) {n : Nat} (hn : n < 64) {w : Work} (hw : w.rc = 0#6) :
    (vectorRounds t vrk n w).rc.toNat = n := by
  induction n with
  | zero => rw [vectorRounds, hw]; rfl
  | succ n ih =>
    have hi := ih (by omega)
    rw [vectorRounds_succ]
    simp only [vectorRound, BitVec.toNat_add, hi]
    exact Nat.mod_eq_of_lt (by simpa using hn)

/-- The key of round RC. -/
theorem roundKeyAt_eq (rk : Vector Word 32) {rc : BitVec 6} {n : Nat} (h : rc.toNat = n) :
    roundKeyAt rk rc = rk.get (Fin.ofNat 32 n) := by rw [roundKeyAt, h]

theorem vectorRoundKeyAt_eq (vrk : Vector VReg 32) {rc : BitVec 6} {n : Nat} (h : rc.toNat = n) :
    vectorRoundKeyAt vrk rc = vrk.get (Fin.ofNat 32 n) := by rw [vectorRoundKeyAt, h]

end Sys2Proof.Machine
end

