-- ==== Sys2Proof/Laws/Tables.lean ====
section
/-! SUPPORT. Laws of the table bank and of the round functions built on it. -/

namespace Sys2Proof.Machine
open BitVec

/-- Looking an entry up in the built bank gives the entry of 40_sbox_tables.md R115. -/
theorem tlookup_buildTables (s : SBox) (j : Fin 4) (b : Byte) : tlookup (buildTables s) j b = tableEntry s j b := by
  have hget : ∀ k : Fin 4, (buildTable s k).get b.toFin = tableEntry s k b := by
    intro k
    rw [Vector.get_eq_getElem]
    simp [buildTable]
  rw [tlookup, ← hget]
  fin_cases j <;> rfl

/-- Rotation moves bit i to bit (i + n) mod 32. -/
theorem getLsbD_rotl32 (w : Word) {n i : Nat} (hn : n < 32) (hi : i < 32) :
    (rotl32 w n).getLsbD i = w.getLsbD ((i + 32 - n) % 32) := by
  rw [rotl32, getLsbD_rotateLeft, Nat.mod_eq_of_lt hn]
  by_cases h : i < n
  · rw [show (i + 32 - n) % 32 = 32 - n + i by omega]
    simp [h]
  · rw [show (i + 32 - n) % 32 = i - n by omega]
    simp [h, hi]

theorem rotl32_xor (a b : Word) {n : Nat} (hn : n < 32) : rotl32 (a ^^^ b) n = rotl32 a n ^^^ rotl32 b n := by
  ext i hi
  rw [← getLsbD_eq_getElem, ← getLsbD_eq_getElem, getLsbD_xor, getLsbD_rotl32 _ hn hi, getLsbD_rotl32 _ hn hi,
    getLsbD_rotl32 _ hn hi, getLsbD_xor]

/-- A lane of a gather is the lookup of that lane's byte (42_round_vector.md R153). -/
theorem lane_vgather (t : TableBank) (j : Fin 4) (y : VReg) {l : Nat} (h : l < 8) :
    lane (vgather t j y) l = tlookup t j (byteOf (lane y l) (3 - j.val)) := lane_ofLanes _ h

end Sys2Proof.Machine
end

