-- ==== Sys2Proof/Laws/Window.lean ====
section
/-! SUPPORT. The register window, offset by offset, and everything one step can do. -/

namespace Sys2Proof.Machine

/-! ### The map, forwards -/

theorem regionOf_keyin {i : Nat} (h : i < 32) : regionOf (0x20 + i) = some (.byte .keyin i) := by
  rw [regionOf, if_neg (by omega), if_pos (by omega), bufferRegion, if_pos (by omega), Nat.add_sub_cancel_left]

theorem regionOf_din {i : Nat} (h : i < 64) : regionOf (0x40 + i) = some (.byte .din i) := by
  rw [regionOf, if_neg (by omega), if_pos (by omega), bufferRegion, if_neg (by omega), if_pos (by omega),
    Nat.add_sub_cancel_left]

theorem regionOf_dout {i : Nat} (h : i < 64) : regionOf (0x80 + i) = some (.byte .dout i) := by
  rw [regionOf, if_neg (by omega), if_pos (by omega), bufferRegion, if_neg (by omega), if_neg (by omega),
    if_pos (by omega), Nat.add_sub_cancel_left]

/-- A reduced index that is already in range is itself. -/
theorem ofNat_eq_fin {n k : Nat} [NeZero n] (r : Fin n) (h : k = r.val) : Fin.ofNat n k = r := by
  subst h
  ext
  simp only [Fin.val_ofNat, Nat.mod_eq_of_lt r.isLt]

theorem regionOf_rkwin (r : Fin 32) : regionOf (0x100 + 4 * r.val) = some (.rkwin r) := by
  rw [regionOf, if_neg (by omega), if_neg (by omega), if_pos (by omega), bankRegion, if_pos (by omega),
    ofNat_eq_fin r (by omega)]

theorem regionOf_vrkwin (r : Fin 32) (l : Fin 8) : regionOf (0x400 + 32 * r.val + 4 * l.val) = some (.vrkwin r l) := by
  rw [regionOf, if_neg (by omega), if_neg (by omega), if_pos (by omega), bankRegion, if_neg (by omega),
    if_neg (by omega), if_pos (by omega), ofNat_eq_fin r (by omega), ofNat_eq_fin l (by omega)]

theorem regionOf_tblwin (j : Fin 4) (b : Fin 256) : regionOf (0x1000 + 1024 * j.val + 4 * b.val) = some (.tblwin j b) := by
  rw [regionOf, if_neg (by omega), if_neg (by omega), if_neg (by omega), windowSize, if_pos (by omega), tableRegion,
    ofNat_eq_fin j (by omega), ofNat_eq_fin b (by omega)]

theorem regionOf_cmd : regionOf 0x0 = some .cmd := rfl
theorem regionOf_status : regionOf 0x4 = some .status := rfl
theorem regionOf_ctrl : regionOf 0x8 = some .ctrl := rfl
theorem regionOf_errcmd : regionOf 0xC = some .errcmd := rfl

/-! ### The map, backwards -/

/-- No region exactly past the window. -/
theorem regionOf_eq_none {off : Nat} : regionOf off = none ↔ 0x2000 ≤ off := by
  rw [regionOf, windowSize]
  split_ifs <;> simp <;> omega

theorem registerRegion_ne_byte (off : Nat) (b : Buffer) (i : Nat) : registerRegion off ≠ .byte b i := by
  rw [registerRegion]
  split_ifs <;> simp

theorem bankRegion_ne_byte (off : Nat) (b : Buffer) (i : Nat) : bankRegion off ≠ .byte b i := by
  rw [bankRegion]
  split_ifs <;> simp

theorem bufferRegion_eq_byte {off i : Nat} {b : Buffer} (hlo : 0x20 ≤ off) (h : bufferRegion off = .byte b i) :
    off = b.base + i ∧ i < b.size ∧ inBuffers off := by
  rw [bufferRegion] at h
  split_ifs at h <;> simp only [Region.byte.injEq] at h <;>
    (obtain ⟨rfl, rfl⟩ := h; simp only [inBuffers, Buffer.base, Buffer.size]; omega)

/-- A byte region is one of the three buffers, at its own index. -/
theorem regionOf_eq_byte {off i : Nat} {b : Buffer} (h : regionOf off = some (.byte b i)) :
    off = b.base + i ∧ i < b.size ∧ inBuffers off := by
  rw [regionOf] at h
  split_ifs at h with h1 h2 <;> simp only [Option.some.injEq] at h
  · exact absurd h (registerRegion_ne_byte _ _ _)
  · exact bufferRegion_eq_byte (by omega) h
  · exact absurd h (bankRegion_ne_byte _ _ _)
  · simp [tableRegion] at h

/-- The offsets between 0x20 and 0xBF are byte regions. -/
theorem regionOf_of_inBuffers {off : Nat} (h : inBuffers off) : ∃ b i, regionOf off = some (.byte b i) := by
  obtain ⟨h1, h2⟩ := h
  by_cases ha : off < 0x40
  · exact ⟨.keyin, off - 0x20, by rw [← regionOf_keyin (i := off - 0x20) (by omega)]; exact congrArg _ (by omega)⟩
  · by_cases hb : off < 0x80
    · exact ⟨.din, off - 0x40, by rw [← regionOf_din (i := off - 0x40) (by omega)]; exact congrArg _ (by omega)⟩
    · exact ⟨.dout, off - 0x80, by rw [← regionOf_dout (i := off - 0x80) (by omega)]; exact congrArg _ (by omega)⟩

/-- Outside them no byte region is. -/
theorem regionOf_not_byte {off : Nat} (h : ¬ inBuffers off) (b : Buffer) (i : Nat) : regionOf off ≠ some (.byte b i) :=
  fun hb => h (regionOf_eq_byte hb).2.2

theorem bufferRegion_ne {off : Nat} {r : Region} (h : r = .cmd ∨ r = .ctrl) : bufferRegion off ≠ r := by
  rw [bufferRegion]
  rcases h with rfl | rfl <;> split_ifs <;> simp

theorem bankRegion_ne {off : Nat} {r : Region} (h : r = .cmd ∨ r = .ctrl) : bankRegion off ≠ r := by
  rw [bankRegion]
  rcases h with rfl | rfl <;> split_ifs <;> simp

/-- CMD and CTRL each have one aligned offset. -/
theorem regionOf_eq_cmd {off : Nat} (h : regionOf off = some .cmd) : off < 4 := by
  rw [regionOf] at h
  split_ifs at h <;> simp only [Option.some.injEq] at h
  · rw [registerRegion] at h
    split_ifs at h
    assumption
  · exact absurd h (bufferRegion_ne (.inl rfl))
  · exact absurd h (bankRegion_ne (.inl rfl))
  · simp [tableRegion] at h

theorem regionOf_eq_ctrl {off : Nat} (h : regionOf off = some .ctrl) : 8 ≤ off ∧ off < 12 := by
  rw [regionOf] at h
  split_ifs at h <;> simp only [Option.some.injEq] at h
  · rw [registerRegion] at h
    split_ifs at h
    omega
  · exact absurd h (bufferRegion_ne (.inr rfl))
  · exact absurd h (bankRegion_ne (.inr rfl))
  · simp [tableRegion] at h

/-- The unmapped offsets are gaps. -/
theorem regionOf_gap {off : Nat}
    (h : (0x10 ≤ off ∧ off < 0x20) ∨ (0xC0 ≤ off ∧ off < 0x100) ∨ (0x180 ≤ off ∧ off < 0x400) ∨
      (0x800 ≤ off ∧ off < 0x1000)) : regionOf off = some .gap := by
  rcases h with h | h | h | h
  · rw [regionOf, if_pos (by omega), registerRegion, if_neg (by omega), if_neg (by omega), if_neg (by omega),
      if_neg (by omega)]
  · rw [regionOf, if_neg (by omega), if_pos (by omega), bufferRegion, if_neg (by omega), if_neg (by omega),
      if_neg (by omega)]
  · rw [regionOf, if_neg (by omega), if_neg (by omega), if_pos (by omega), bankRegion, if_neg (by omega),
      if_pos (by omega)]
  · rw [regionOf, if_neg (by omega), if_neg (by omega), if_pos (by omega), bankRegion, if_neg (by omega),
      if_neg (by omega), if_neg (by omega)]

/-- A region that is not a byte region answers a 32-bit read. -/
theorem readWord_of_not_byte (s : State) {r : Region} (h : ∀ b i, r ≠ .byte b i) : ∃ v, s.readWord r = some v := by
  cases r <;> first | exact ⟨_, rfl⟩ | exact absurd rfl (h _ _)

/-! ### The accesses -/

theorem hostRead8_byte {off i : Nat} {b : Buffer} (h : regionOf off = some (.byte b i)) (s : State) :
    hostRead8 off s = .next (s.observe (.byte (s.buf b i))) := by rw [hostRead8, h]

theorem hostRead32_word {off : Nat} {r : Region} {v : Word} {s : State} (h : regionOf off = some r)
    (hv : s.readWord r = some v) (ha : off % 4 = 0) : hostRead32 off s = .next (s.observe (.word v)) := by
  simp only [hostRead32, h, hv, ha, if_pos]

theorem hostWrite8_byte {off i : Nat} {b : Buffer} (h : regionOf off = some (.byte b i)) (hb : b ≠ .dout) (v : Byte)
    (s : State) : hostWrite8 off v s = .next (s.storeBuf b i [v]) := by
  cases b <;> simp_all [hostWrite8]

theorem hostWrite8_dout {off i : Nat} (h : regionOf off = some (.byte .dout i)) (v : Byte) (s : State) :
    hostWrite8 off v s = .next s := by
  simp only [hostWrite8, h]

theorem hostWrite32_word {off : Nat} {r : Region} (h : regionOf off = some r) (hr : ∀ b i, r ≠ .byte b i)
    (ha : off % 4 = 0) (v : Word) (s : State) : hostWrite32 off v s = writeWord r v s := by
  cases r <;> first | exact absurd rfl (hr _ _) | simp only [hostWrite32, h, ha, if_pos]

/-- A CMD write of a word that decodes is its command behind the checks. -/
theorem writeCmd_command {w : Word} {i : Instr} (h : decode w = .command i) (s : State) :
    writeCmd w s = .next (runChecked i (commandBody i) s) := by
  simp only [writeCmd, h, exec_eq_runChecked]

theorem writeCmd_rejected {w : Word} {e : DecodeError} (h : decode w = .rejected e) (s : State) :
    writeCmd w s = .next (illegalWrite w s) := by
  simp only [writeCmd, h]

/-- Writes to CMD. -/
theorem hostWrite32_cmd (w : Word) (s : State) : hostWrite32 0x0 w s = writeCmd w s := rfl

/-- Writes to CTRL. -/
theorem hostWrite32_ctrl (v : Word) (s : State) : hostWrite32 0x8 v s = .next (s.writeCtrl v) := rfl

/-! ### One step -/

theorem step_nil {s : State} (h : s.pending = []) : step s = .next s := by
  rw [step, takeEvent, h]

theorem step_cons {s : State} {e : HostEvent} {rest : List HostEvent} (h : s.pending = e :: rest) :
    step s = performEvent e (s.withPending rest) := by
  rw [step, takeEvent, h]

/-- Everything one step can do when it answers a next state. -/
inductive StepEffect (s : State) : State → Prop
  /-- Nothing waits. -/
  | idle (h : s.pending = []) : StepEffect s s
  /-- The reset event. -/
  | reset (rest : List HostEvent) (h : s.pending = .reset :: rest) : StepEffect s (s.withPending rest).resetEvent
  /-- An 8-bit read of a buffer byte. -/
  | read8 (off : Nat) (r : Reading) (rest : List HostEvent) (h : s.pending = .read8 off :: rest) :
    StepEffect s ((s.withPending rest).observe r)
  /-- A 32-bit read. -/
  | read32 (off : Nat) (r : Reading) (rest : List HostEvent) (h : s.pending = .read32 off :: rest) :
    StepEffect s ((s.withPending rest).observe r)
  /-- A byte written to KEYIN or DIN. -/
  | write8 (b : Buffer) (i : Nat) (v : Byte) (rest : List HostEvent) (hb : b ≠ .dout) (hi : i < b.size)
    (h : s.pending = .write8 (b.base + i) v :: rest) : StepEffect s ((s.withPending rest).storeBuf b i [v])
  /-- An 8-bit write that is ignored (to DOUT). -/
  | ignored8 (off : Nat) (v : Byte) (rest : List HostEvent) (h : s.pending = .write8 off v :: rest) :
    StepEffect s (s.withPending rest)
  /-- A 32-bit write that is ignored (to a read-only register, a window or a gap). -/
  | ignored32 (off : Nat) (v : Word) (rest : List HostEvent) (h : s.pending = .write32 off v :: rest) :
    StepEffect s (s.withPending rest)
  /-- A CMD write that decodes. -/
  | command (w : Word) (i : Instr) (rest : List HostEvent) (h : s.pending = .write32 0x0 w :: rest)
    (hd : decode w = .command i) : StepEffect s (runChecked i (commandBody i) (s.withPending rest))
  /-- A CMD write that does not decode. -/
  | illegal (w : Word) (e : DecodeError) (rest : List HostEvent) (h : s.pending = .write32 0x0 w :: rest)
    (hd : decode w = .rejected e) : StepEffect s (illegalWrite w (s.withPending rest))
  /-- A CTRL write. -/
  | ctrl (v : Word) (rest : List HostEvent) (h : s.pending = .write32 0x8 v :: rest) :
    StepEffect s ((s.withPending rest).writeCtrl v)

theorem step_effect {s t : State} (h : step s = .next t) : StepEffect s t := by
  cases hp : s.pending with
  | nil =>
    rw [step_nil hp] at h
    cases h
    exact .idle hp
  | cons e rest =>
    rw [step_cons hp] at h
    cases e with
    | reset =>
      simp only [performEvent] at h
      cases h
      exact .reset rest hp
    | read8 off =>
      simp only [performEvent, hostRead8] at h
      split at h <;> cases h
      exact .read8 off _ rest hp
    | read32 off =>
      simp only [performEvent, hostRead32] at h
      split at h
      · cases h
      · split at h
        · cases h
        · split at h <;> cases h
          exact .read32 off _ rest hp
    | write8 off v =>
      simp only [performEvent, hostWrite8] at h
      split at h
      · cases h
      · cases h
        exact .ignored8 off v rest hp
      · cases h
        rename_i b i hb hr
        obtain ⟨rfl, hi, _⟩ := regionOf_eq_byte hr
        exact .write8 b i v rest (fun hd => hb (by subst hd; rfl)) hi hp
      · cases h
    | write32 off v =>
      simp only [performEvent, hostWrite32] at h
      split at h
      · cases h
      · cases h
      · rename_i r hb hr
        split at h
        · rename_i ha
          cases r <;> simp only [writeWord] at h <;> try first | (cases h; done) | (cases h; exact .ignored32 off v rest hp)
          · have ho : off = 0 := by have := regionOf_eq_cmd hr; omega
            subst ho
            cases hd : decode v with
            | command i =>
              rw [writeCmd_command hd] at h
              cases h
              exact .command v i rest hp hd
            | rejected e =>
              rw [writeCmd_rejected hd] at h
              cases h
              exact .illegal v e rest hp hd
          · have ho : off = 8 := by have := regionOf_eq_ctrl hr; omega
            subst ho
            cases h
            exact .ctrl v rest hp
        · cases h

end Sys2Proof.Machine
end

