-- ==== Sys2Proof/Tests/Slice0.lean ====
section
/-! SUPPORT. Tests: ill-formed commands are refused; words written out from the encoding of spec/30_encoding.md decode; one-step
tests with the expected values of spec/95_test_vectors.md; and for every statement with hypotheses a state that meets them. -/

namespace Sys2Proof.Tests
open Sys2Proof Sys2Proof.Machine Sys2Proof.Machine.Ref

/-! ### States -/

/-- The key bytes of 95_test_vectors.md ("std key"). -/
def stdKey : List Byte :=
  [0xff, 0xee, 0xdd, 0xcc, 0xbb, 0xaa, 0x99, 0x88, 0x77, 0x66, 0x55, 0x44, 0x33, 0x22, 0x11, 0x00,
   0xf0, 0xf1, 0xf2, 0xf3, 0xf4, 0xf5, 0xf6, 0xf7, 0xf8, 0xf9, 0xfa, 0xfb, 0xfc, 0xfd, 0xfe, 0xff]

/-- The bytes 00 01 02 … -/
def ramp (n : Nat) : List Byte := (List.range n).map (BitVec.ofNat 8)

/-- The state after reset with KEYIN and DIN written. -/
def loaded (key din : List Byte) : State := (State.reset.store 0x20 key).store 0x40 din

/-- The same with both schedules built from the key. -/
def keyed (din : List Byte) : State :=
  let s := loaded stdKey din
  { s with rk := kexpand s.keyWord, ksv := true, vrk := kexpand8 s.keyWord, vksv := true }

/-- A bank that is cheap to evaluate: every round function value is all ones. -/
def flatTables : TableBank :=
  #v[Vector.replicate 256 0xffffffff#32, Vector.replicate 256 0#32, Vector.replicate 256 0#32, Vector.replicate 256 0#32]

/-- KEYIN and DIN written, both schedules and DOUT zero, over the cheap bank. -/
def zeroed : State :=
  { (loaded stdKey (ramp 64)).store 0x80 (List.replicate 64 0) with
    tables := flatTables, rk := Vector.replicate 32 0#32, ksv := true, vrk := Vector.replicate 32 0#256, vksv := true }

/-- A halted engine: NoSchedule raised by ENC1. -/
def halted : State := { State.reset with err := 3#4, errcmd := 0x00000803#32 }

/-- A state with other working registers. -/
def withWork (s : State) (w : Work) : State := { s with work := w }

/-- The first bytes of DOUT in a next state. -/
def doutOf (o : Host.Outcome State Fault Refusal) (n : Nat) : List Byte :=
  match o with
  | .next s => (List.range n).map (s.buf .dout)
  | _ => []

/-- A fact about the next state, false of a fault or refusal. -/
def nextHas (o : Host.Outcome State Fault Refusal) (p : State → Bool) : Bool :=
  match o with
  | .next s => p s
  | _ => false

/-! ### Well-formedness: the one check refuses an ill-formed command of every kind -/

theorem test_setkey_len_256_ill_formed : ¬ (Instr.setkey 256).WellFormed := by decide
theorem test_setkeyv_len_256_ill_formed : ¬ (Instr.setkeyv 256).WellFormed := by decide
theorem test_enc1_len_256_ill_formed : ¬ (Instr.enc1 256).WellFormed := by decide
theorem test_enc8_len_320_ill_formed : ¬ (Instr.enc8 320).WellFormed := by decide
theorem test_rndfn_len_264_ill_formed : ¬ (Instr.rndfn 264).WellFormed := by decide
theorem test_vrndfn_len_1000_ill_formed : ¬ (Instr.vrndfn 1000).WellFormed := by decide
theorem test_len_255_well_formed : (Instr.setkeyv 255).WellFormed := by decide

/-! ### Decoding: words written out as RSV, LEN, OPC (30_encoding.md R81, R82, 95_test_vectors.md V9.1 to V9.25) -/

theorem test_decode_setkey : decode 0b0000000000000000_00100000_00000001#32 = .command (.setkey 32) := by decide
theorem test_decode_setkeyv : decode 0b0000000000000000_00100000_00000010#32 = .command (.setkeyv 32) := by decide
theorem test_decode_enc1 : decode 0b0000000000000000_00001000_00000011#32 = .command (.enc1 8) := by decide
theorem test_decode_enc8 : decode 0b0000000000000000_01000000_00000100#32 = .command (.enc8 64) := by decide
theorem test_decode_rndfn : decode 0b0000000000000000_00001000_00000101#32 = .command (.rndfn 8) := by decide
theorem test_decode_vrndfn : decode 0b0000000000000000_01000000_00000110#32 = .command (.vrndfn 64) := by decide
theorem test_decode_setkeyv_len_255 : decode 0b0000000000000000_11111111_00000010#32 = .command (.setkeyv 255) := by decide
theorem test_decode_enc1_len_0 : decode 0b0000000000000000_00000000_00000011#32 = .command (.enc1 0) := by decide
theorem test_decode_zero_word : decode 0x00000000#32 = .rejected .unknownOpcode := by decide
theorem test_decode_opc_07 : decode 0x00000807#32 = .rejected .unknownOpcode := by decide
theorem test_decode_rsv_low_bit : decode 0b0000000000000001_00001000_00000011#32 = .rejected .reservedBits := by decide
theorem test_decode_rsv_high_bit : decode 0b1000000000000000_00001000_00000011#32 = .rejected .reservedBits := by decide
theorem test_table_word : decodeTableWord 32 0x00000805 = some (.rndfn 8) ∧ decodeTableWord 32 0x00010003 = none := by decide

/-! ### Steps, with the values of 95_test_vectors.md -/

/-- V6.1: the ends of the ascending and of the descending part. -/
theorem test_setkey_schedule : nextHas (exec (.setkey 32) (loaded stdKey [])) (fun t =>
    t.ksv && t.rk.get 0 == 0xffeeddcc#32 && t.rk.get 23 == 0xfcfdfeff#32 && t.rk.get 24 == 0xfcfdfeff#32 &&
      t.rk.get 30 == 0xbbaa9988#32 && t.status == 0x00000001#32) = true := by decide +kernel

/-- V6.4. -/
theorem test_setkeyv_schedule : nextHas (exec (.setkeyv 32) (loaded stdKey [])) (fun t =>
    t.vksv && lane (t.vrk.get 0) 7 == 0xffeeddcc#32 && lane (t.vrk.get 24) 5 == 0xfcfdfeff#32 &&
      lane (t.vrk.get 25) 0 == 0xf8f9fafb#32 && t.status == 0x00000002#32) = true := by decide +kernel

/-- V5.1, the published vector. -/
theorem test_enc1_published : doutOf (exec (.enc1 8) (keyed [0xfe, 0xdc, 0xba, 0x98, 0x76, 0x54, 0x32, 0x10])) 8 =
    [0x4e, 0xe9, 0x01, 0xe5, 0xc2, 0xd8, 0xca, 0x3d] := by decide +kernel

/-- V8.1: eight different blocks. -/
theorem test_enc8_ramp : doutOf (exec (.enc8 64) (keyed (ramp 64))) 64 =
    [0x58, 0x66, 0x51, 0x25, 0x8a, 0xbd, 0x04, 0x44, 0x91, 0x77, 0x04, 0xf4, 0x1e, 0x8c, 0x4e, 0x44,
     0x78, 0xbe, 0x19, 0xc7, 0xe0, 0x64, 0x06, 0x4d, 0x9d, 0x24, 0xa2, 0x1d, 0xe3, 0x95, 0x9d, 0x38,
     0x3c, 0x8f, 0xfb, 0x6d, 0x22, 0x75, 0xc2, 0x6e, 0x51, 0x76, 0xe1, 0x59, 0x2d, 0x09, 0x2e, 0x40,
     0x76, 0x20, 0xbd, 0x09, 0xc1, 0x98, 0xaa, 0xc8, 0xe1, 0x7d, 0x55, 0x91, 0x8e, 0x71, 0x24, 0xdd] := by
  decide +kernel

/-- V4.1, the published value of the round function. -/
theorem test_rndfn_published :
    doutOf (exec (.rndfn 8) (loaded [] [0xfe, 0xdc, 0xba, 0x98, 0x87, 0x65, 0x43, 0x21])) 4 = [0xfd, 0xcb, 0xc2, 0x0c] := by
  decide +kernel

/-- V4.15: eight different lanes, three of them with a carry out of bit 31. -/
theorem test_vrndfn_lanes : doutOf (exec (.vrndfn 64) (loaded []
      [0x00, 0x00, 0x00, 0x00, 0xff, 0xff, 0xff, 0xff, 0xff, 0xff, 0xff, 0xff, 0x80, 0x00, 0x00, 0x00,
       0xfe, 0xdc, 0xba, 0x98, 0x87, 0x65, 0x43, 0x21, 0x01, 0x23, 0x45, 0x67, 0x12, 0x34, 0x56, 0x78,
       0x00, 0x00, 0x00, 0x00, 0x00, 0x00, 0x00, 0x01, 0xff, 0xff, 0xff, 0xff, 0x80, 0x00, 0x00, 0x00,
       0x87, 0x65, 0x43, 0x21, 0xfd, 0xcb, 0xc2, 0x0c, 0xff, 0xee, 0xdd, 0xcc, 0x9a, 0xbc, 0xde, 0xf0])) 32 =
    [0xbe, 0x5b, 0x60, 0xc2, 0xbe, 0x5b, 0x60, 0xc2, 0x65, 0x87, 0xf9, 0x38, 0xbe, 0x5b, 0x60, 0xc2,
     0xfd, 0xcb, 0xc2, 0x0c, 0x7e, 0x79, 0x1a, 0x4b, 0xa9, 0x41, 0x90, 0xf6, 0x78, 0xfa, 0xf5, 0x68] := by
  decide +kernel

/-- V3.1 and V3.7. -/
theorem test_sub32 : sub32 sboxTc26Z 0xfdb97531#32 = 0x2a196f34#32 ∧ sub32 sboxTc26Z 0x01234567#32 = 0x1efadf59#32 := by
  decide +kernel

/-- V3.22, V3.31, V3.28: one entry of three tables, two of them with the field wrap. -/
theorem test_table_entries : tlookup State.reset.tables 0 0xff#8 = 0x00000138#32 ∧
    tlookup State.reset.tables 1 0x7f#8 = 0x60000005#32 ∧ tlookup State.reset.tables 3 0x01#8 = 0x00032000#32 := by
  decide +kernel

/-- V7.1: the entry sequence on the bytes 00 to 3f. -/
theorem test_load8 : let w := load8 (fun i => BitVec.ofNat 8 i) State.reset.work
    lane w.va 0 = 0x00010203#32 ∧ lane w.vn1 3 = 0x18191a1b#32 ∧ lane w.vn2 3 = 0x1c1d1e1f#32 := by decide +kernel

/-- V9.14. -/
theorem test_size_mismatch : nextHas (step (State.reset.withFetchWord 32 0x00001001)) (fun t =>
    t.status == 0x00000020#32 && t.errcmd == 0x00001001#32) = true := by decide +kernel

/-- V9.22: no schedule after reset. -/
theorem test_no_schedule : nextHas (step (State.reset.withFetchWord 32 0x00000803)) (fun t =>
    t.status == 0x00000030#32 && t.errcmd == 0x00000803#32) = true := by decide +kernel

/-- V9.25: IllegalCommand comes before SizeMismatch. -/
theorem test_illegal_before_size : nextHas (step (State.reset.withFetchWord 32 0x00010003)) (fun t =>
    t.status == 0x00000010#32 && t.errcmd == 0x00010003#32) = true := by decide +kernel

/-- V9.26: ignored while halted. -/
theorem test_halted_ignores : nextHas (step (halted.withFetchWord 32 0x00002001)) (fun t =>
    t.status == 0x00000030#32 && t.errcmd == 0x00000803#32) = true := by decide +kernel

/-- 30_encoding.md R89: the expansion of `clrerr` and of `encrypt_block`. -/
theorem test_pseudo_expansion : scriptEvents (Pseudo.expand .clrerr) = [.write32 0x8 1#32] ∧
    (scriptEvents (Pseudo.expand (.encryptBlock (Vector.replicate 8 0#8)))).drop 8 =
      .write32 0x0 0x00000803#32 :: byteReads 0x80 8 := by decide +kernel

/-- 30_encoding.md R88: `OPC | (n << 8)` with n = 288 has a reserved bit set; it is not SETKEY with LEN 32. -/
theorem test_cmd_line_length_288 : (ScriptLine.cmd (.setkey 288)).events = [.write32 0x0 0x00012001#32] ∧
    (ScriptLine.cmd (.enc1 8)).events = [.write32 0x0 0x00000803#32] := by decide +kernel

/-! ### The hypotheses of the statements can be met -/

/-- Every command is answered with a next state, so a hypothesis that says so can be met. -/
theorem exec_is_next (i : Instr) (s : State) : ∃ t, exec i s = .next t := ⟨_, exec_eq_runChecked i s⟩

theorem witness_table_decoder : decodeByTable 0x0000ff02#32 = some (.setkeyv 255, 32) ∧ decodeByTable 0x00000807#32 = none ∧
    (commandTable.head?.map fun r => r.selects 0x00000001#32) = some true := by decide

theorem witness_unassigned_words : State.reset.err = 0#4 ∧
    (rsvField 0x00010803#32 ≠ 0#16 ∧ opcField 0x0000ff00#32 = 0#8 ∧ 7 ≤ (opcField 0x00000807#32).toNat) ∧
    (rsvField 0x00001f01#32 = 0#16 ∧ 1 ≤ (opcField 0x00001f01#32).toNat ∧ (opcField 0x00001f01#32).toNat ≤ 6 ∧
      (lenField 0x00001f01#32).toNat ≠ requiredLen (opcField 0x00001f01#32)) ∧
    (rsvField 0x0000ff06#32 = 0#16 ∧ (opcField 0x0000ff06#32).toNat ≤ 6 ∧
      (lenField 0x0000ff06#32).toNat ≠ requiredLen (opcField 0x0000ff06#32)) := by decide +kernel

theorem witness_step_runs : (State.reset.withFetchWord 32 0x00000805).pending = .write32 0x0 0x00000805#32 :: [] ∧
    decode 0x00000805#32 = .command (.rndfn 8) := by decide +kernel

theorem witness_idle : State.reset.pending = [] := rfl

theorem witness_command_write : (halted.withFetchWord 32 0xffffffff).pending = .write32 0x0 0xffffffff#32 :: [] := by
  decide +kernel

/-- The clauses of ChecksFirst: a decoding word of each command, one with a reserved bit, a halted state, a wrong length at
each end of the field. -/
theorem witness_checks_first : State.reset.err = 0#4 ∧ halted.err ≠ 0#4 ∧
    (∀ opc ∈ [0x01#8, 0x02#8, 0x03#8, 0x04#8, 0x05#8, 0x06#8],
      opcField (0#16 ++ 255#8 ++ opc) = opc ∧ rsvField (0#16 ++ 255#8 ++ opc) = 0#16 ∧
      opcField (0x8000#16 ++ 0#8 ++ opc) = opc ∧ rsvField (0x8000#16 ++ 0#8 ++ opc) ≠ 0#16) ∧
    (∀ req ∈ [8, 32, 64], (0 : Nat) ≠ req ∧ (255 : Nat) ≠ req) := by decide +kernel

/-- A running engine without and with the scalar and the vector schedule. -/
theorem witness_encryptors : State.reset.err = 0#4 ∧ State.reset.ksv = false ∧ State.reset.vksv = false ∧
    zeroed.err = 0#4 ∧ zeroed.ksv = true ∧ zeroed.vksv = true := ⟨rfl, rfl, rfl, rfl, rfl, rfl⟩

theorem witness_wrong_length : (Instr.enc8 65).WellFormed ∧ (Instr.enc8 65).len ≠ requiredLen (Instr.enc8 65).opc ∧
    (Instr.setkey 0).WellFormed ∧ (Instr.setkey 0).len ≠ requiredLen (Instr.setkey 0).opc := by decide

theorem witness_no_schedule : nextHas (exec (.enc1 8) State.reset) (fun t => t.err == 3#4) = true ∧
    nextHas (exec (.enc8 64) State.reset) (fun t => t.err == 3#4) = true := by decide +kernel

theorem witness_fault_entry : nextHas (step (offer State.reset (.write32 0x0 0#32))) (fun t => t.err != State.reset.err) = true := by
  decide +kernel

theorem witness_halted_accesses : halted.err ≠ 0#4 ∧ (HostEvent.read8 0x20).Admitted ∧ (HostEvent.read8 0xBF).Admitted ∧
    (HostEvent.read32 0x0).Admitted ∧ (HostEvent.read32 0x1FFC).Admitted ∧ (31 : Nat) < 32 ∧ (63 : Nat) < 64 ∧
    (0x00000001#32 : Word).getLsbD 0 = true := by
  refine ⟨by decide, ?_, ?_, ?_, ?_, by decide, by decide, by decide⟩ <;> simp [HostEvent.Admitted, inBuffers]

theorem witness_ctrl_write : (0xffffffff#32 : Word).getLsbD 0 = true ∧ (0xfffffffe#32 : Word).getLsbD 0 = false := by decide

/-- One step for each clause about the flags: KSV set and cleared, VKSV set and cleared, ERR set and cleared. -/
theorem witness_flag_changes :
    (State.reset.ksv = false ∧ nextHas (step (offer State.reset (.write32 0x0 0x00002001#32))) (·.ksv) = true) ∧
    (zeroed.ksv = true ∧ nextHas (step (offer zeroed .reset)) (!·.ksv) = true) ∧
    (State.reset.vksv = false ∧ nextHas (step (offer State.reset (.write32 0x0 0x00002002#32))) (·.vksv) = true) ∧
    (zeroed.vksv = true ∧ nextHas (step (offer zeroed .reset)) (!·.vksv) = true) ∧
    (State.reset.err = 0#4 ∧ nextHas (step (offer State.reset (.write32 0x0 0#32))) (·.err != 0#4) = true) ∧
    (halted.err ≠ 0#4 ∧ nextHas (step (offer halted (.write32 0x8 1#32))) (·.err != halted.err) = true) := by
  decide +kernel

/-- Both ends of every gap, and the last indices of the buffers. -/
theorem witness_unmapped : ∀ off ∈ [0x10, 0x1C, 0xC0, 0xFC, 0x180, 0x3FC, 0x800, 0xFFC], Unmapped off ∧ off % 4 = 0 := by
  simp [Unmapped]

theorem witness_ignored_writes : ∀ off ∈ [0x4, 0xC, 0x10, 0x100, 0x1FFC],
    (HostEvent.write32 off 0#32).Admitted ∧ off ≠ 0x0 ∧ off ≠ 0x8 := by
  simp [HostEvent.Admitted, inBuffers]

theorem witness_admitted : (HostEvent.write8 0x9F 0#8).Admitted ∧ HostEvent.reset.Admitted ∧
    ¬ (HostEvent.read32 0x2).Admitted ∧ ¬ (HostEvent.read8 0xC0).Admitted := by
  simp [HostEvent.Admitted, inBuffers]

theorem witness_past_window : 0x2000 ≤ (0x2000 : Nat) ∧ (0x1FFF : Nat) < 0x2000 := by decide

theorem witness_window_address : State.reset.windowOffset (Config.base State.reset.unit) = some 0 := by
  simp [State.windowOffset, windowSize]

/-- A step that changes each bank. -/
theorem witness_bank_writes :
    nextHas (step (offer zeroed (.write32 0x0 0x00002001#32))) (fun t => t.rk != zeroed.rk) = true ∧
    nextHas (step (offer zeroed (.write32 0x0 0x00002002#32))) (fun t => t.vrk != zeroed.vrk) = true := by decide +kernel

/-- A step that changes the last byte each writer may change: KEYIN, DIN, DOUT by RNDFN, by VRNDFN, by ENC1. -/
theorem witness_buffer_writes :
    nextHas (step (offer zeroed (.write8 (0x20 + 31) 0#8))) (fun t => t.buf .keyin 31 != zeroed.buf .keyin 31) = true ∧
    nextHas (step (offer zeroed (.write8 (0x40 + 63) 0#8))) (fun t => t.buf .din 63 != zeroed.buf .din 63) = true ∧
    nextHas (step (offer zeroed (.write32 0x0 0x00000805#32))) (fun t => t.buf .dout 3 != zeroed.buf .dout 3) = true ∧
    nextHas (step (offer zeroed (.write32 0x0 0x00004006#32))) (fun t => t.buf .dout 31 != zeroed.buf .dout 31) = true ∧
    nextHas (step (offer zeroed (.write32 0x0 0x00000803#32))) (fun t => t.buf .dout 7 != zeroed.buf .dout 7) = true := by
  decide +kernel

/-- Two states with the same inputs of every command and different working registers and draws. -/
theorem witness_same_inputs : ∀ i : Instr, SameInputs zeroed (withWork zeroed (unspecifiedWork 0 7)) i := by
  have h : ∀ (s : State) (w : Work) (i : Instr), SameInputs s (withWork s w) i := by
    intro s w i
    cases i <;> first
      | exact fun _ _ => rfl
      | exact ⟨rfl, fun _ _ => rfl⟩
      | exact ⟨rfl, rfl, fun _ _ => rfl⟩
  exact h zeroed _

/-- … and a command that ends there without a fault. -/
theorem witness_no_hidden_state : nextHas (exec (.setkeyv 32) zeroed) (fun t => t.err == 0#4) = true ∧
    nextHas (exec (.setkey 32) zeroed) (fun t => t.err == 0#4) = true := by decide +kernel

/-- A configured bank, for the reset event. -/
theorem witness_configured_bank : ∀ (j : Fin 4) (b : Byte), tlookup halted.tables j b = tableEntry configuredSBox j b :=
  fun j b => tlookup_buildTables _ j b

/-- A halted engine with both schedules valid, of zero keys. -/
def haltedKeyed : State :=
  { halted with rk := Vector.replicate 32 0#32, ksv := true, vrk := Vector.replicate 32 0#256, vksv := true }

/-- It has the invariant, and its step is answered. -/
theorem witness_invariant : haltedKeyed.Inv configuredSBox ∧ step haltedKeyed = .next haltedKeyed := by
  refine ⟨⟨witness_configured_bank, List.Pairwise.nil, fun c hc => absurd hc (List.not_mem_nil), (by decide), (by decide),
    fun _ => ⟨fun _ => 0#32, fun r => ?_⟩, fun _ => ⟨fun _ => 0#32, fun r l => ?_⟩⟩, rfl⟩
  · rw [ite_self]
    exact Vector.getElem_replicate r.isLt
  · have hr : haltedKeyed.vrk.get r = 0#256 := Vector.getElem_replicate r.isLt
    have hl : ∀ l : Fin 8, lane 0#256 l.val = 0#32 := by decide
    rw [ite_self, hr]
    exact hl l

/-- The two ends of the zero part of table 0, whose field is bits 10 to 3. -/
theorem witness_zero_field : ∀ i ∈ [2, 11], i < 32 ∧ ∀ q, q < 8 → i ≠ (8 * (3 - (0 : Fin 4).val) + 11 + q) % 32 := by decide

theorem witness_permutation : sboxTc26Z.Permutes := by decide +kernel

theorem witness_bit_ranges : (0 < 1 ∧ 1 < 32 ∧ 31 < 32) ∧ (3 < 4 ∧ 7 < 8) := by decide

/-- Two keyed states that differ outside block 7 and agree on it and on lane 7 of the schedule. -/
theorem witness_lanes : let s := zeroed
    let s' := { zeroed.store 0x40 [0xff, 0xff] with rk := Vector.replicate 32 1#32 }
    s.err = 0#4 ∧ s'.err = 0#4 ∧ s.vksv = true ∧ s'.vksv = true ∧ s'.tables = s.tables ∧
      (∀ r : Fin 32, lane (s'.vrk.get r) 7 = lane (s.vrk.get r) 7) ∧
      ∀ p, p < 8 → s'.buf .din (8 * 7 + p) = s.buf .din (8 * 7 + p) :=
  ⟨rfl, rfl, rfl, rfl, rfl, fun _ => rfl, by decide +kernel⟩

/-- The vector side holds eight blocks, the scalar side block 7 of them, under one key. -/
theorem witness_equivalence : let s := loaded stdKey (ramp 64)
    let s1 := loaded stdKey [56, 57, 58, 59, 60, 61, 62, 63]
    s.err = 0#4 ∧ s1.err = 0#4 ∧ s1.tables = s.tables ∧ (∀ j, j < 32 → s1.buf .keyin j = s.buf .keyin j) ∧
      ∀ p, p < 8 → s1.buf .din p = s.buf .din (8 * 7 + p) :=
  ⟨rfl, rfl, rfl, by decide +kernel, by decide +kernel⟩

/-- ENC1 of one state twice. -/
theorem witness_injective : zeroed.err = 0#4 ∧ zeroed.ksv = true ∧ ∃ t t', exec (.enc1 8) zeroed = .next t ∧
    exec (.enc1 8) zeroed = .next t' ∧ ∀ j, j < 8 → t'.buf .dout j = t.buf .dout j :=
  ⟨rfl, rfl, _, _, exec_eq_runChecked _ _, exec_eq_runChecked _ _, fun _ _ => rfl⟩

/-- A run of admitted events, at the ends of the regions. -/
theorem witness_admitted_run : ∀ e ∈ [HostEvent.reset, .write8 0x20 0xff#8, .write32 0x0 0x00000805#32, .read8 0xBF, .read32 0x1FFC],
    e.Admitted := by
  simp [HostEvent.Admitted, inBuffers]

/-- A step of the second instance of two. -/
theorem witness_platform : platformStep 1 [halted, State.reset] = .next [halted, State.reset] := rfl

/-- Lengths at both ends of the clauses of a `cmd` line. -/
theorem witness_cmd_line : (Instr.enc8 0).len < 256 ∧ (Instr.enc8 255).len < 256 ∧
    (256 ≤ (Instr.enc8 256).len ∧ (Instr.enc8 256).len < 2 ^ 24) ∧ (Instr.enc8 16777215).len < 2 ^ 24 := by decide

/-- Lines that end at the last byte of their buffer. -/
theorem witness_byte_lines : 31 + [0xff#8].length ≤ 32 ∧ 0 + (ramp 64).length ≤ 64 ∧ 63 + 1 ≤ 64 := by decide

end Sys2Proof.Tests
end

section
/-! What the commands compute, said without the working registers: ENC1 and each lane of ENC8 are the reference encipher,
RNDFN and each lane of VRNDFN the round function, SETKEY and SETKEYV the expansion of the eight key words. From this, and
from the checks falling the same way for the same flags, the statements of 10_state.md R32 and R36. -/

namespace Sys2Proof.Machine
open Sys2Proof.Machine.Ref

/-! ### Host events in front of the queue -/

/-- A step takes the event in front of those waiting and performs it on the state behind it. -/
theorem step_offer (s : State) (e : HostEvent) : step (offer s e) = performEvent e s :=
  step_cons (s := offer s e) (rest := s.pending) rfl

theorem writeCtrl_of_set (s : State) {v : Word} (h : v.getLsbD 0 = true) : s.writeCtrl v = s.clearFault := if_pos h

theorem writeCtrl_of_clear (s : State) {v : Word} (h : v.getLsbD 0 = false) : s.writeCtrl v = s := by
  rw [State.writeCtrl, h, if_neg Bool.false_ne_true]

/-! ### The scalar engine -/

/-- The loop over the working registers computes the reference pair (44_feistel_scalar.md R191). -/
theorem scalarRounds_pair (t : TableBank) (rk : Vector Word 32) {n : Nat} (hn : n < 64) {w : Work} (hw : w.rc = 0#6) :
    ((scalarRounds t rk n w).n1, (scalarRounds t rk n w).n2) =
      pairAfter (roundF t) (fun r => rk.get (Fin.ofNat 32 r)) (w.n1, w.n2) n := by
  induction n with
  | zero => rfl
  | succ n ih =>
    have hkey := roundKeyAt_eq rk (scalarRounds_rc t rk (by omega : n < 64) hw)
    rw [scalarRounds_succ, pairAfter, ← ih (by omega)]
    simp only [scalarRound, hkey, xor32]

/-- ENC1's block is the reference encipher of its input block, whatever the working registers held. -/
theorem enc1Work_pair (t : TableBank) (rk : Vector Word 32) (n1 n2 : Word) (w : Work) :
    ((enc1Work t rk n1 n2 w).n1, (enc1Work t rk n1 n2 w).n2) =
      encipher (roundF t) (fun r => rk.get (Fin.ofNat 32 r)) (n1, n2) := by
  have hpair := scalarRounds_pair t rk (n := 31) (by omega) (w := { w with n1 := n1, n2 := n2, rc := 0#6 }) rfl
  have hkey := roundKeyAt_eq rk (scalarRounds_rc t rk (n := 31) (by omega) (w := { w with n1 := n1, n2 := n2, rc := 0#6 }) rfl)
  rw [encipher, ← hpair]
  simp only [enc1Work, scalarLast, hkey, xor32]

/-! ### The vector engine, lane by lane -/

/-- The vector round function is the scalar one in every lane (42_round_vector.md R150). -/
theorem lane_roundF8 (t : TableBank) (x k : VReg) {l : Nat} (h : l < 8) :
    lane (roundF8 t x k) l = roundF t (lane x l) (lane k l) := by
  simp only [roundF8, roundF, lane_vxor _ _ h, lane_vgather _ _ _ h, lane_vadd32 _ _ h, xor32]
  exact (BitVec.xor_assoc _ _ _).symm

/-- Each lane of the vector loop computes the reference pair under its own keys (46_feistel_vector.md R231). -/
theorem lane_vectorRounds_pair (t : TableBank) (vrk : Vector VReg 32) {l : Nat} (hl : l < 8) {n : Nat} (hn : n < 64) {w : Work}
    (hw : w.rc = 0#6) :
    (lane (vectorRounds t vrk n w).vn1 l, lane (vectorRounds t vrk n w).vn2 l) =
      pairAfter (roundF t) (fun r => lane (vrk.get (Fin.ofNat 32 r)) l) (lane w.vn1 l, lane w.vn2 l) n := by
  induction n with
  | zero => rfl
  | succ n ih =>
    have hkey := vectorRoundKeyAt_eq vrk (vectorRounds_rc t vrk (by omega : n < 64) hw)
    rw [vectorRounds_succ, pairAfter, ← ih (by omega)]
    simp only [vectorRound, vcopy, hkey, lane_vxor _ _ hl, lane_roundF8 _ _ _ hl, xor32]

/-- … and with the last round the reference encipher. -/
theorem lane_vectorLast_pair (t : TableBank) (vrk : Vector VReg 32) {l : Nat} (hl : l < 8) {w : Work} (hw : w.rc = 0#6) :
    (lane (vectorLast t vrk (vectorRounds t vrk 31 w)).vn1 l, lane (vectorLast t vrk (vectorRounds t vrk 31 w)).vn2 l) =
      encipher (roundF t) (fun r => lane (vrk.get (Fin.ofNat 32 r)) l) (lane w.vn1 l, lane w.vn2 l) := by
  have hkey := vectorRoundKeyAt_eq vrk (vectorRounds_rc t vrk (n := 31) (by omega) hw)
  rw [encipher, ← lane_vectorRounds_pair t vrk hl (n := 31) (by omega) hw]
  simp only [vectorLast, hkey, lane_vxor _ _ hl, lane_roundF8 _ _ _ hl, xor32]

/-- LOAD8 puts block l into lane l of the two halves (45_shuffle.md R218). -/
theorem lane_load8 (s : State) (w : Work) {l : Nat} (hl : l < 8) :
    (lane (load8 (s.buf .din) w).vn1 l, lane (load8 (s.buf .din) w).vn2 l) = dinBlock s l := by
  have hlo : 4 * (2 * l) = 8 * l := by omega
  have hhi : 4 * (2 * l + 1) = 8 * l + 4 := by omega
  simp only [load8, dinBlock, lane_vdeint_fst _ _ hl, lane_vdeint_snd _ _ hl,
    blockSetWord_loaded _ (by omega : 2 * l < 16), blockSetWord_loaded _ (by omega : 2 * l + 1 < 16), hlo, hhi]

/-! ### The bytes of DOUT after a command -/

/-- Byte j of a row of 8-byte blocks whose block number j / 8 is the pair p: first half first, each big-endian
(20_memory.md R51). -/
def blockByte (p : Word × Word) (j : Nat) : Byte := byteOf (if j % 8 < 4 then p.1 else p.2) (3 - j % 4)

theorem dout_rndfnBody (s : State) {j : Nat} (hj : j < 4) :
    (rndfnBody s).buf .dout j = byteOf (roundF s.tables (s.dinWord 0) (s.dinWord 4)) (3 - j) := by
  rw [buf_eq_byteAt, dout_base, byteAt_rndfnBody, if_pos (by omega), Nat.add_sub_cancel_left]

theorem dout_vrndfnBody (s : State) {j : Nat} (hj : j < 32) :
    (vrndfnBody s).buf .dout j =
      byteOf (roundF s.tables (s.dinWord (4 * (j / 4))) (s.dinWord (32 + 4 * (j / 4)))) (3 - j % 4) := by
  have hl : j / 4 < 8 := by omega
  rw [buf_eq_byteAt, dout_base, byteAt_vrndfnBody, if_pos (by omega), Nat.add_sub_cancel_left, vrndfnWork,
    lane_roundF8 _ _ _ hl, lane_vbswap32_vload _ _ hl, lane_vbswap32_vload _ _ hl, Nat.zero_add, State.dinWord, State.dinWord]

/-- ENC1 leaves the enciphered block 0 of DIN (44_feistel_scalar.md R192). -/
theorem dout_enc1Body (s : State) {j : Nat} (hj : j < 8) :
    (enc1Body s).buf .dout j = blockByte (encipher (roundF s.tables) (scalarKey s) (dinBlock s 0)) j := by
  have hpair : (_, _) = encipher (roundF s.tables) (scalarKey s) (dinBlock s 0) :=
    enc1Work_pair s.tables s.rk (s.dinWord 0) (s.dinWord 4) s.work
  rw [buf_eq_byteAt, dout_base, byteAt_enc1Body, ← hpair, blockByte]
  by_cases h : j < 4
  · rw [if_neg (by omega), if_pos (by omega), if_pos (by omega), Nat.add_sub_cancel_left, Nat.mod_eq_of_lt h]
  · rw [if_pos (by omega), if_neg (by omega), show 0x80 + j - 0x84 = j % 4 by omega]

/-- ENC8 leaves every block of DIN enciphered under the keys of its lane (46_feistel_vector.md R232). -/
theorem dout_enc8Body (s : State) {j : Nat} (hj : j < 64) :
    (enc8Body s).buf .dout j =
      blockByte (encipher (roundF s.tables) (laneKey s (j / 8)) (dinBlock s (j / 8))) j := by
  have hl : j / 8 < 8 := by omega
  have hpair : (_, _) = encipher (roundF s.tables) (laneKey s (j / 8)) (lane (load8 (s.buf .din) s.work).vn1 (j / 8), _) :=
    lane_vectorLast_pair s.tables s.vrk hl (w := { load8 (s.buf .din) s.work with rc := 0#6 }) rfl
  have hhalf : j / 4 / 2 = j / 8 := by omega
  rw [lane_load8 s _ hl] at hpair
  rw [buf_eq_byteAt, dout_base, byteAt_enc8Body, ← hpair, blockByte]
  simp only [Nat.add_sub_cancel_left, interleavedWord, hhalf]
  rw [if_pos (by omega)]
  by_cases h : j % 8 < 4
  · rw [if_pos (by omega), if_pos h]
  · rw [if_neg (by omega), if_neg h]

/-! ### Results depend on the bytes read only -/

theorem dinWord_congr {s s' : State} {m o : Nat} (h : ∀ j, j < m → s'.buf .din j = s.buf .din j) (ho : o + 4 ≤ m) :
    s'.dinWord o = s.dinWord o := be32_congr fun _ hp => h _ (by omega)

theorem dinBlock_congr {s s' : State} {m i : Nat} (h : ∀ j, j < m → s'.buf .din j = s.buf .din j) (hi : 8 * i + 8 ≤ m) :
    dinBlock s' i = dinBlock s i := Prod.ext (dinWord_congr h (by omega)) (dinWord_congr h (by omega))

theorem keyWord_congr {s s' : State} (h : ∀ j, j < 32 → s'.buf .keyin j = s.buf .keyin j) {i : Nat} (hi : i < 8) :
    s'.keyWord i = s.keyWord i := be32_congr fun _ hp => h _ (by omega)

theorem keyIndex_lt {r : Nat} (hr : r < 32) : keyIndex r < 8 := by
  rw [keyIndex]
  split_ifs <;> omega

/-- The expansion reads the eight key words and nothing else (43_key_schedule.md R171). -/
theorem kexpand_congr {k k' : Nat → Word} (h : ∀ i, i < 8 → k' i = k i) : kexpand k' = kexpand k :=
  congrArg Vector.ofFn (funext fun r => h _ (keyIndex_lt r.isLt))

theorem kexpand8_congr {k k' : Nat → Word} (h : ∀ i, i < 8 → k' i = k i) : kexpand8 k' = kexpand8 k := by
  rw [kexpand8, kexpand8, kexpand_congr h]

/-- Two commands run on the same inputs write the same bytes of DOUT. -/
theorem commandBody_dout_congr {s s' : State} (i : Instr) (h : SameInputs s s' i) {j : Nat} (hj : j < resultBytes i) :
    (commandBody i s').buf .dout j = (commandBody i s).buf .dout j := by
  cases i with
  | setkey n => exact absurd hj (Nat.not_lt_zero j)
  | setkeyv n => exact absurd hj (Nat.not_lt_zero j)
  | enc1 n =>
    obtain ⟨htables, hrk, hdin⟩ := h
    have hkey : scalarKey s' = scalarKey s := by funext r; rw [scalarKey, scalarKey, hrk]
    simp only [commandBody, dout_enc1Body _ hj, htables, hkey, dinBlock_congr hdin (i := 0) (by omega)]
  | enc8 n =>
    obtain ⟨htables, hvrk, hdin⟩ := h
    have hkey : laneKey s' (j / 8) = laneKey s (j / 8) := by funext r; rw [laneKey, laneKey, hvrk]
    have hlt : j < 64 := hj
    simp only [commandBody, dout_enc8Body _ hj, htables, hkey, dinBlock_congr hdin (i := j / 8) (by omega)]
  | rndfn n =>
    obtain ⟨htables, hdin⟩ := h
    simp only [commandBody, dout_rndfnBody _ hj, htables, dinWord_congr hdin (o := 0) (by omega),
      dinWord_congr hdin (o := 4) (by omega)]
  | vrndfn n =>
    obtain ⟨htables, hdin⟩ := h
    have hlt : j < 32 := hj
    simp only [commandBody, dout_vrndfnBody _ hj, htables, dinWord_congr hdin (o := 4 * (j / 4)) (by omega),
      dinWord_congr hdin (o := 32 + 4 * (j / 4)) (by omega)]

/-! ### The flags after a command -/

theorem EngineFault.code_ne_zero (f : EngineFault) : f.code ≠ 0#4 := by cases f <;> decide

/-- A command that ends without a fault passed every check. -/
theorem runChecked_of_err_zero {i : Instr} {body : State → State} {s : State} (h : (runChecked i body s).err = 0#4) :
    runChecked i body s = body s := by
  rcases runChecked_cases i body s with ⟨herr, hrun⟩ | ⟨_, _, hrun⟩ | ⟨_, _, _, hrun⟩ | ⟨_, _, _, hrun⟩
  · exact absurd (hrun ▸ h) herr
  · rw [hrun, raise_err] at h
    exact absurd h (EngineFault.code_ne_zero _)
  · rw [hrun, raise_err] at h
    exact absurd h (EngineFault.code_ne_zero _)
  · exact hrun

/-- The flags of 10_state.md R36: ERR, KSV, VKSV. -/
structure SameFlags (s s' : State) : Prop where
  err : s'.err = s.err
  ksv : s'.ksv = s.ksv
  vksv : s'.vksv = s.vksv

theorem SameFlags.hasSchedule {s s' : State} (h : SameFlags s s') (i : Instr) : s'.hasSchedule i = s.hasSchedule i := by
  cases i with
  | enc1 n => exact h.ksv
  | enc8 n => exact h.vksv
  | setkey n | setkeyv n | rndfn n | vrndfn n => rfl

theorem SameFlags.after_raise {s s' : State} (h : SameFlags s s') (f : EngineFault) (w : Word) :
    SameFlags (s.raise f w) (s'.raise f w) := ⟨rfl, h.ksv, h.vksv⟩

/-- SETKEY and SETKEYV each set their own flag; nothing else moves one. -/
theorem SameFlags.after_commandBody {s s' : State} (h : SameFlags s s') (i : Instr) :
    SameFlags (commandBody i s) (commandBody i s') := by
  refine ⟨by rw [commandBody_err, commandBody_err, h.err], ?_, ?_⟩
  · cases i <;> simp only [commandBody, setkeyBody_ksv, setkeyvBody_ksv, rndfnBody_ksv, vrndfnBody_ksv, enc1Body_ksv,
      enc8Body_ksv, h.ksv]
  · cases i <;> simp only [commandBody, setkeyBody_vksv, setkeyvBody_vksv, rndfnBody_vksv, vrndfnBody_vksv, enc1Body_vksv,
      enc8Body_vksv, h.vksv]

/-- The checks of two runs fall the same way, so the flags after them agree. -/
theorem SameFlags.after_runChecked {s s' : State} (h : SameFlags s s') (i : Instr) :
    SameFlags (runChecked i (commandBody i) s) (runChecked i (commandBody i) s') := by
  rcases runChecked_cases i (commandBody i) s with
    ⟨herr, hrun⟩ | ⟨herr, hlen, hrun⟩ | ⟨herr, hlen, hsched, hrun⟩ | ⟨herr, hlen, hsched, hrun⟩ <;>
    rw [hrun] <;> rw [← h.err] at herr
  · rw [runChecked_of_halted herr]
    exact h
  · rw [runChecked_of_len herr hlen]
    exact h.after_raise _ _
  · rw [runChecked_of_schedule herr hlen (by rw [h.hasSchedule, hsched])]
    exact h.after_raise _ _
  · rw [runChecked_of_ok herr hlen (by rw [h.hasSchedule, hsched])]
    exact h.after_commandBody i

/-! ### The statements -/

/-- Settles O20: the event in front is a write or a read of CTRL, whose region is the model's `ctrl`. -/
theorem ctrlWriteClearsTheFault : Obligations.CtrlWriteClearsTheFault := by
  intro s
  refine ⟨fun v hv => ?_, fun v hv => ?_, ?_⟩
  · rw [step_offer, performEvent, hostWrite32_ctrl, writeCtrl_of_set s hv, State.clearFault]
  · rw [Ignored, step_offer, performEvent, hostWrite32_ctrl, writeCtrl_of_clear s hv]
  · rw [Returns, step_offer, performEvent, hostRead32_word regionOf_ctrl rfl rfl, State.observe]

/-- Settles O31: the two runs pass or fail the checks together, and a run that passes them leaves only functions of its
inputs. -/
theorem commandsHaveNoHiddenState : Obligations.CommandsHaveNoHiddenState := by
  intro i s s' t t' herr hksv hvksv hs hs'
  rw [exec_eq_runChecked] at hs hs'
  cases hs
  cases hs'
  obtain ⟨herr', hksv', hvksv'⟩ := SameFlags.after_runChecked ⟨herr, hksv, hvksv⟩ i
  refine ⟨⟨herr', hksv', hvksv'⟩, fun hin hok => ?_⟩
  rw [runChecked_of_err_zero hok, runChecked_of_err_zero (herr'.trans hok)]
  refine ⟨fun j hj => commandBody_dout_congr i hin hj, ?_, ?_⟩
  · rintro n rfl
    simp only [commandBody, setkeyBody_rk]
    exact kexpand_congr fun _ => keyWord_congr hin
  · rintro n rfl
    simp only [commandBody, setkeyvBody_vrk]
    exact kexpand8_congr fun _ => keyWord_congr hin

end Sys2Proof.Machine
end

section
/-! What one host access in front of the queue does, by the region at its offset (20_memory.md R60): reads answer the value
of the region, a byte write to KEYIN or DIN stores that byte alone, and a word write acts at CMD and CTRL only. From this the
statements of 20_memory.md R61 and R62. -/

namespace Sys2Proof.Machine
open Sys2Proof.Machine.Ref

/-! ### Reads, by region -/

/-- An 8-bit read of a byte region returns its byte. -/
theorem returns_byte_of_region {off i : Nat} {b : Buffer} (h : regionOf off = some (.byte b i)) (s : State) :
    Returns s (.read8 off) (.byte (s.buf b i)) := by
  rw [Returns, step_offer, performEvent, hostRead8_byte h, State.observe]

/-- An aligned 32-bit read of a word region or a gap returns its word. -/
theorem returns_word_of_region {off : Nat} {r : Region} {v : Word} {s : State} (h : regionOf off = some r)
    (hv : s.readWord r = some v) (ha : off % 4 = 0) : Returns s (.read32 off) (.word v) := by
  rw [Returns, step_offer, performEvent, hostRead32_word h hv ha, State.observe]

/-! ### Byte writes -/

theorem buf_storeBuf_byte_same (s : State) (b : Buffer) (i : Nat) (v : Byte) : (s.storeBuf b i [v]).buf b i = v :=
  byteAt_store_of_inside s (bs := [v]) (i := 0) Nat.zero_lt_one

theorem byteAt_storeBuf_byte_of_ne (s : State) {b : Buffer} {i a : Nat} (v : Byte) (h : a ≠ b.base + i) :
    (s.storeBuf b i [v]).byteAt a = s.byteAt a :=
  byteAt_store_of_outside s (by rw [List.length_singleton]; omega)

/-- A byte write to KEYIN or DIN changes the memory, at the byte written and nowhere else. -/
theorem step_write8_stores {off i : Nat} {b : Buffer} (h : regionOf off = some (.byte b i)) (hb : b ≠ .dout) (v : Byte)
    (s : State) : ∃ t, step (offer s (.write8 off v)) = .next t ∧ t = { s with mem := t.mem } ∧
      t.buf b i = v ∧ ∀ a, a ≠ off → t.byteAt a = s.byteAt a := by
  obtain ⟨rfl, _, _⟩ := regionOf_eq_byte h
  refine ⟨s.storeBuf b i [v], ?_, rfl, buf_storeBuf_byte_same s b i v, fun a => byteAt_storeBuf_byte_of_ne s v⟩
  rw [step_offer, performEvent, hostWrite8_byte h hb]

/-- A byte write to DOUT is ignored. -/
theorem ignored_write8_dout {off i : Nat} (h : regionOf off = some (.byte .dout i)) (v : Byte) (s : State) :
    Ignored s (.write8 off v) := by
  rw [Ignored, step_offer, performEvent, hostWrite8_dout h]

/-! ### Word writes -/

/-- A word region that is neither CMD nor CTRL ignores the word. -/
theorem writeWord_of_readOnly {r : Region} (hcmd : r ≠ .cmd) (hctrl : r ≠ .ctrl) (hbyte : ∀ b i, r ≠ .byte b i) (v : Word)
    (s : State) : writeWord r v s = .next s := by
  cases r with
  | cmd => exact absurd rfl hcmd
  | ctrl => exact absurd rfl hctrl
  | byte b i => exact absurd rfl (hbyte b i)
  | status | errcmd | rkwin | vrkwin | tblwin | gap => rfl

/-- CMD and CTRL are the only word registers that take a write. -/
theorem ignored_write32_of_readOnly {off : Nat} {v : Word} (h : (HostEvent.write32 off v).Admitted) (hcmd : off ≠ 0x0)
    (hctrl : off ≠ 0x8) (s : State) : Ignored s (.write32 off v) := by
  obtain ⟨hlt, halign, hbuf⟩ := h
  have hmapped : regionOf off ≠ none := fun hnone => absurd (regionOf_eq_none.mp hnone) (by omega)
  obtain ⟨r, hr⟩ := Option.ne_none_iff_exists'.mp hmapped
  have hbyte : ∀ b i, r ≠ .byte b i := fun b i hb => regionOf_not_byte hbuf b i (hb ▸ hr)
  have hnotCmd : r ≠ .cmd := fun hc => by
    have hlow : off < 4 := regionOf_eq_cmd (hc ▸ hr)
    omega
  have hnotCtrl : r ≠ .ctrl := fun hc => by
    have hrange : 8 ≤ off ∧ off < 12 := regionOf_eq_ctrl (hc ▸ hr)
    omega
  rw [Ignored, step_offer, performEvent, hostWrite32_word hr hbyte halign, writeWord_of_readOnly hnotCmd hnotCtrl hbyte]

/-! ### The statements -/

/-- Settles O23: at each offset the map names the region, and the region's reading is the value stated. -/
theorem hostReadReturnsTheAddressedValue : Obligations.HostReadReturnsTheAddressedValue := by
  intro s
  refine ⟨?keyin, ?din, ?dout, ?status, ?errcmd, ?rk, ?vrk, ?tables, ?cmd, ?ctrl, ?unmapped⟩
  case keyin => exact fun i hi => returns_byte_of_region (regionOf_keyin hi) s
  case din => exact fun i hi => returns_byte_of_region (regionOf_din hi) s
  case dout => exact fun i hi => returns_byte_of_region (regionOf_dout hi) s
  case status => exact returns_word_of_region regionOf_status rfl rfl
  case errcmd => exact returns_word_of_region regionOf_errcmd rfl rfl
  case rk => exact fun r => returns_word_of_region (regionOf_rkwin r) rfl (by omega)
  case vrk => exact fun r l => returns_word_of_region (regionOf_vrkwin r l) rfl (by omega)
  case tables => exact fun j b => returns_word_of_region (regionOf_tblwin j b) rfl (by omega)
  case cmd => exact returns_word_of_region regionOf_cmd rfl rfl
  case ctrl => exact returns_word_of_region regionOf_ctrl rfl rfl
  case unmapped => exact fun off hgap ha => returns_word_of_region (regionOf_gap hgap) rfl ha

/-- Settles O24: KEYIN and DIN take a byte, CMD and CTRL a word, and every other admitted offset is read-only. -/
theorem hostWriteFollowsTheMap : Obligations.HostWriteFollowsTheMap := by
  intro s
  refine ⟨?keyin, ?din, ?cmd, ?ctrl, ?dout, ?readOnly⟩
  case keyin => exact fun i v hi => step_write8_stores (regionOf_keyin hi) (by decide) v s
  case din => exact fun i v hi => step_write8_stores (regionOf_din hi) (by decide) v s
  case cmd =>
    intro w
    rw [step_offer, performEvent, hostWrite32_cmd]
  case ctrl =>
    intro v
    rw [step_offer, performEvent, hostWrite32_ctrl, State.writeCtrl, State.clearFault]
  case dout => exact fun i v hi => ignored_write8_dout (regionOf_dout hi) v s
  case readOnly => exact fun off v hadm hcmd hctrl => ignored_write32_of_readOnly hadm hcmd hctrl s

end Sys2Proof.Machine
end

section
/-! A host write of a word to CMD (30_encoding.md R80): a word that decodes is the encoding of its command and runs it behind
the shared checks, a word that does not is illegal. From this the statements of R80 and R85. -/

namespace Sys2Proof.Machine
open Sys2Proof.Machine.Ref

/-! ### Words and the commands they decode to -/

/-- The words R85 calls illegal; `decode_rejected_iff` says they are those the decoder rejects. -/
abbrev IllegalWord (w : Word) : Prop := rsvField w ≠ 0#16 ∨ opcField w = 0#8 ∨ 7 ≤ (opcField w).toNat

/-- The word of a command is recovered from the command: the fields are all there is (R81). -/
theorem encode_of_decode {w : Word} {i : Instr} (h : decode w = .command i) : encode i = w := by
  obtain ⟨hrsv, hopc, hlen⟩ := decode_eq_command.mp h
  rw [encode, ← hlen, BitVec.ofNat_toNat, BitVec.setWidth_eq, ← hopc, ← hrsv, word_of_fields]

/-- A word that is not illegal decodes (R86: the decoder is total). -/
theorem exists_decode_of_legal {w : Word} (h : ¬ IllegalWord w) : ∃ i, decode w = .command i := by
  cases hd : decode w with
  | command i => exact ⟨i, rfl⟩
  | rejected e => exact absurd (decode_rejected_iff.mp ⟨e, hd⟩) h

/-- The opcodes R80 does not list are the unassigned ranges of R85. -/
theorem opc_not_assigned_iff (o : Byte) :
    o ∉ [0x01#8, 0x02#8, 0x03#8, 0x04#8, 0x05#8, 0x06#8] ↔ o = 0#8 ∨ 7 ≤ o.toNat := by
  simp only [List.mem_cons, List.not_mem_nil, or_false, ← BitVec.toNat_inj, BitVec.toNat_ofNat]
  omega

@[simp] theorem requiredLen_opc (i : Instr) : requiredLen i.opc = i.reqLen := by cases i <;> rfl

/-- The required LEN read off a word that decodes. -/
theorem len_eq_requiredLen_iff {w : Word} {i : Instr} (h : decode w = .command i) :
    (lenField w).toNat = requiredLen (opcField w) ↔ i.len = i.reqLen := by
  obtain ⟨_, hopc, hlen⟩ := decode_eq_command.mp h
  rw [hopc, hlen, requiredLen_opc]

/-- A command with its required LEN is one of the six complete words of R82. -/
theorem encode_mem_of_len {i : Instr} (h : i.len = i.reqLen) :
    encode i ∈ [0x00002001#32, 0x00002002#32, 0x00000803#32, 0x00004004#32, 0x00000805#32, 0x00004006#32] := by
  cases i <;> (cases h; decide)

/-- The schedule check by opcode: only ENC1 and ENC8 need a flag. -/
theorem hasSchedule_eq_false_iff (s : State) (i : Instr) :
    s.hasSchedule i = false ↔ (i.opc = 0x03#8 ∧ s.ksv = false) ∨ (i.opc = 0x04#8 ∧ s.vksv = false) := by
  cases i <;> simp [State.hasSchedule, Instr.opc]

/-- The effect of a command, selected by its opcode. -/
theorem commandBody_by_opc (i : Instr) (s : State) :
    (if i.opc = 0x01#8 then .next (setkeyBody s)
      else if i.opc = 0x02#8 then .next (setkeyvBody s)
      else if i.opc = 0x03#8 then .next (enc1Body s)
      else if i.opc = 0x04#8 then .next (enc8Body s)
      else if i.opc = 0x05#8 then .next (rndfnBody s)
      else .next (vrndfnBody s) : Host.Outcome State Fault Refusal) = .next (commandBody i s) := by
  cases i <;> rfl

/-! ### A CMD write in front of the queue -/

/-- A word that decodes runs its command behind the checks. -/
theorem step_cmd_command {w : Word} {i : Instr} (h : decode w = .command i) (s : State) :
    step (offer s (.write32 0x0 w)) = .next (runChecked i (commandBody i) s) := by
  rw [step_offer, performEvent, hostWrite32_cmd, writeCmd_command h]

/-- An illegal word is answered by the illegal-command rule (60_exceptions.md R253). -/
theorem step_cmd_illegal {w : Word} (h : IllegalWord w) (s : State) :
    step (offer s (.write32 0x0 w)) = .next (illegalWrite w s) := by
  obtain ⟨e, hd⟩ := decode_rejected_iff.mpr h
  rw [step_offer, performEvent, hostWrite32_cmd, writeCmd_rejected hd]

/-- Running, it raises IllegalCommand with the word written. -/
theorem step_cmd_illegal_running {s : State} {w : Word} (herr : s.err = 0#4) (h : IllegalWord w) :
    step (offer s (.write32 0x0 w)) = .next { s with err := 1#4, errcmd := w } := by
  rw [step_cmd_illegal h, illegalWrite_of_running herr, State.raise, EngineFault.code]

/-- A wrong LEN raises SizeMismatch with the word written (60_exceptions.md R254). -/
theorem step_cmd_wrong_len {s : State} {w : Word} {i : Instr} (herr : s.err = 0#4) (hd : decode w = .command i)
    (hlen : (lenField w).toNat ≠ requiredLen (opcField w)) :
    step (offer s (.write32 0x0 w)) = .next { s with err := 2#4, errcmd := w } := by
  rw [step_cmd_command hd, runChecked_of_len herr (mt (len_eq_requiredLen_iff hd).mpr hlen), State.raise,
    EngineFault.code, encode_of_decode hd]

/-- A missing schedule raises NoSchedule with the word written (60_exceptions.md R255). -/
theorem step_cmd_no_schedule {s : State} {w : Word} {i : Instr} (herr : s.err = 0#4) (hd : decode w = .command i)
    (hlen : i.len = i.reqLen) (hsched : s.hasSchedule i = false) :
    step (offer s (.write32 0x0 w)) = .next { s with err := 3#4, errcmd := w } := by
  rw [step_cmd_command hd, runChecked_of_schedule herr hlen hsched, State.raise, EngineFault.code, encode_of_decode hd]

/-- While halted every word is ignored (60_exceptions.md R258). -/
theorem step_cmd_halted {s : State} (herr : s.err ≠ 0#4) (w : Word) : step (offer s (.write32 0x0 w)) = .next s := by
  cases hd : decode w with
  | command i => rw [step_cmd_command hd, runChecked_of_halted herr]
  | rejected e => rw [step_cmd_illegal (decode_rejected_iff.mp ⟨e, hd⟩), illegalWrite_of_halted herr]

/-! ### The statements -/

/-- Settles O4: an illegal word is one the decoder rejects; any other decodes, and is the encoding of its command. -/
theorem unassignedWordsRaiseIllegalCommand : Obligations.UnassignedWordsRaiseIllegalCommand := by
  refine ⟨?illegal, ?wrongLen, ?exhaustive, ?zeros, ?ones⟩
  case illegal => exact fun s w herr hw => step_cmd_illegal_running herr hw
  case wrongLen =>
    intro s w herr hrsv hlow hhigh hlen
    have hlegal : ¬ IllegalWord w := by
      rintro (hn | hzero | hbig)
      · exact hn hrsv
      · simp [hzero] at hlow
      · omega
    obtain ⟨i, hd⟩ := exists_decode_of_legal hlegal
    exact step_cmd_wrong_len herr hd hlen
  case exhaustive =>
    intro w
    by_cases hill : IllegalWord w
    · exact .inl hill
    · obtain ⟨i, hd⟩ := exists_decode_of_legal hill
      by_cases hlen : (lenField w).toNat = requiredLen (opcField w)
      · have hmem := encode_mem_of_len ((len_eq_requiredLen_iff hd).mp hlen)
        exact .inr (.inr (encode_of_decode hd ▸ hmem))
      · exact .inr (.inl hlen)
  case zeros => exact fun s herr => step_cmd_illegal_running herr (by decide)
  case ones => exact fun s herr => step_cmd_illegal_running herr (by decide)

/-- Settles O7: the conditions of R80 in turn, each decided by the lemma about its own branch. -/
theorem commandWriteChecksDecideInOrder : Obligations.CommandWriteChecksDecideInOrder := by
  intro s w
  simp only [opc_not_assigned_iff]
  by_cases herr : s.err ≠ 0#4
  · rw [if_pos herr, step_cmd_halted herr]
  rw [if_neg herr]
  rw [not_not] at herr
  by_cases hill : IllegalWord w
  · rw [if_pos hill, step_cmd_illegal_running herr hill]
  rw [if_neg hill]
  obtain ⟨i, hd⟩ := exists_decode_of_legal hill
  by_cases hlen : (lenField w).toNat ≠ requiredLen (opcField w)
  · rw [if_pos hlen, step_cmd_wrong_len herr hd hlen]
  rw [if_neg hlen]
  rw [not_not, len_eq_requiredLen_iff hd] at hlen
  obtain ⟨_, hopc, _⟩ := decode_eq_command.mp hd
  rw [hopc]
  cases hsched : s.hasSchedule i with
  | false => rw [if_pos ((hasSchedule_eq_false_iff s i).mp hsched), step_cmd_no_schedule herr hd hlen hsched]
  | true =>
    have hready : ¬ ((i.opc = 0x03#8 ∧ s.ksv = false) ∨ (i.opc = 0x04#8 ∧ s.vksv = false)) := by
      rw [← hasSchedule_eq_false_iff, hsched]
      exact Bool.false_ne_true.symm
    rw [if_neg hready, commandBody_by_opc, step_cmd_command hd, runChecked_of_ok herr hlen hsched]

end Sys2Proof.Machine
end

section
/-! RNDFN (41_round_scalar.md R136): its checks are those every command stands behind, its result is F of the two words of
DIN, and its frame is everything but DOUT[0..3]. -/

namespace Sys2Proof.Machine
open Sys2Proof.Machine.Ref

/-! ### The checks in front of a command -/

/-- The checks of R80 stand in front of every command whose words carry the operation code `opc` and ask for `req` bytes. -/
theorem checksFirst_of_fields {mk : Nat → Instr} {opc : Byte} {req : Nat} (hopc : ∀ n, (mk n).opc = opc)
    (hlen : ∀ n, (mk n).len = n) (hreq : ∀ n, (mk n).reqLen = req) : ChecksFirst mk opc req := by
  refine ⟨?decodes, ?reserved, ?halted, ?wrongLen⟩
  case decodes => exact fun w ho hr => decode_eq_command.mpr ⟨hr, ho.trans (hopc _).symm, (hlen _).symm⟩
  case reserved => exact fun s w herr _ hr => step_cmd_illegal_running herr (.inl hr)
  case halted =>
    intro s n herr
    rw [exec_eq_runChecked, runChecked_of_halted herr]
  case wrongLen =>
    intro s n herr _ hn
    have hmismatch : (mk n).len ≠ (mk n).reqLen := by rwa [hlen, hreq]
    rw [exec_eq_runChecked, runChecked_of_len herr hmismatch, State.raise, EngineFault.code]

/-- A command whose checks pass answers its effect. -/
theorem exec_of_ok {i : Instr} {s : State} (herr : s.err = 0#4) (hlen : i.len = i.reqLen) (hsched : s.hasSchedule i = true) :
    exec i s = .next (commandBody i s) := by
  rw [exec_eq_runChecked, runChecked_of_ok herr hlen hsched]

/-! ### The effect of RNDFN -/

/-- The model's F is the sum looked up byte by byte, the most significant byte in T0 (R130, R131). -/
theorem roundF_eq_fourLookups (t : TableBank) : roundF t = fourLookups t := rfl

/-- DOUT[0..3] is F of the two words of DIN, most significant byte first. -/
theorem doutHolds_rndfnBody (s : State) :
    DoutHolds (rndfnBody s) 0 (fourLookups s.tables (s.dinWord 0) (s.dinWord 4)) := by
  intro p hp
  rw [Nat.zero_add, dout_rndfnBody s hp, roundF_eq_fourLookups, byteOf]

/-- Every byte of the window outside DOUT[0..3] keeps its value. -/
theorem doutOnly_rndfnBody (s : State) : DoutOnly s (rndfnBody s) 4 := by
  intro a ha
  rw [dout_base] at ha
  rw [byteAt_rndfnBody, if_neg ha]

/-- Banks, flags and the fault registers are no part of what RNDFN writes. -/
theorem kept_rndfnBody (s : State) : Kept s (rndfnBody s) where
  tables := rndfnBody_tables s
  rk := rndfnBody_rk s
  ksv := rndfnBody_ksv s
  vrk := rndfnBody_vrk s
  vksv := rndfnBody_vksv s
  err := rndfnBody_err s
  errcmd := rndfnBody_errcmd s
  pending := rndfnBody_pending s
  observed := rndfnBody_observed s
  epoch := rndfnBody_epoch s
  unit := rndfnBody_unit s

/-! ### The statement -/

/-- Settles O11: RNDFN needs no schedule, so with ERR = 0 and its required LEN it answers `rndfnBody s`, whose result and
frame are the lemmas above. -/
theorem rndfnWritesTheRoundFunctionOfDin : Obligations.RndfnWritesTheRoundFunctionOfDin := by
  refine ⟨by decide, checksFirst_of_fields (fun _ => rfl) (fun _ => rfl) (fun _ => rfl), fun s herr => ?_⟩
  have hexec : exec (.rndfn 8) s = .next (rndfnBody s) := exec_of_ok herr rfl rfl
  exact ⟨rndfnBody s, hexec, doutHolds_rndfnBody s, doutOnly_rndfnBody s, kept_rndfnBody s, rndfnBody_work s,
    rndfnBody_draws s⟩

end Sys2Proof.Machine
end

section
/-! The vector round function and VRNDFN (42_round_vector.md R150, R157): lane l of F8 is F of lane l, VRNDFN leaves F of each
lane's two words of DIN in DOUT[0..31], and its frame is everything else but the transient working registers. -/

namespace Sys2Proof.Machine
open Sys2Proof.Machine.Ref

/-! ### The effect of VRNDFN -/

/-- Lane l of the result: F of the words at DIN[4l] and DIN[32 + 4l], most significant byte first. -/
theorem doutHolds_vrndfnBody (s : State) {l : Nat} (hl : l < 8) :
    DoutHolds (vrndfnBody s) (4 * l) (fourLookups s.tables (s.dinWord (4 * l)) (s.dinWord (32 + 4 * l))) := by
  intro p hp
  have hlane : (4 * l + p) / 4 = l := by omega
  have hbyte : (4 * l + p) % 4 = p := by omega
  rw [dout_vrndfnBody s (by omega), hlane, hbyte, roundF_eq_fourLookups, byteOf]

/-- Every byte of the window outside DOUT[0..31] keeps its value. -/
theorem doutOnly_vrndfnBody (s : State) : DoutOnly s (vrndfnBody s) 32 := by
  intro a ha
  rw [dout_base] at ha
  rw [byteAt_vrndfnBody, if_neg ha]

/-- Besides DOUT, only the working registers and the number of free values drawn for them change (10_state.md R26). -/
theorem kept_vrndfnBody (s : State) : Kept s (vrndfnBody s) where
  tables := vrndfnBody_tables s
  rk := vrndfnBody_rk s
  ksv := vrndfnBody_ksv s
  vrk := vrndfnBody_vrk s
  vksv := vrndfnBody_vksv s
  err := vrndfnBody_err s
  errcmd := vrndfnBody_errcmd s
  pending := vrndfnBody_pending s
  observed := vrndfnBody_observed s
  epoch := vrndfnBody_epoch s
  unit := vrndfnBody_unit s

/-! ### The statements -/

/-- Settles O12: VRNDFN needs no schedule, so with ERR = 0 and its required LEN it answers `vrndfnBody s`, whose result and
frame are the lemmas above. -/
theorem vrndfnWritesEightRoundFunctionsOfDin : Obligations.VrndfnWritesEightRoundFunctionsOfDin := by
  refine ⟨by decide, checksFirst_of_fields (fun _ => rfl) (fun _ => rfl) (fun _ => rfl), fun s herr => ?_⟩
  have hexec : exec (.vrndfn 64) s = .next (vrndfnBody s) := exec_of_ok herr rfl rfl
  exact ⟨vrndfnBody s, hexec, fun _ hl => doutHolds_vrndfnBody s hl, doutOnly_vrndfnBody s, kept_vrndfnBody s⟩

/-- Settles O41: the adder, the gather and the xors each act lane by lane, so F8 does (`lane_roundF8`). -/
theorem vectorRoundFunctionIsScalarInEveryLane : Obligations.VectorRoundFunctionIsScalarInEveryLane :=
  fun t x k _ hl => lane_roundF8 t x k hl

end Sys2Proof.Machine
end

section
/-! The key schedules (43_key_schedule.md R171 to R173): the index rule of KEXPAND is the written-out key order, the scalar
bank holds the key words in that order and the vector bank the same words in every lane; nothing but the bank and its flag
changes. -/

namespace Sys2Proof.Machine
open Sys2Proof.Machine.Ref

/-! ### The key order -/

/-- The index rule of KEXPAND (0..7 three times, then 7..0) is the table R171 writes out. -/
theorem keyOrder_getD (r : Fin 32) : keyOrder.getD r.val 0 = keyIndex r.val := by
  revert r
  decide

/-- Entry r of the expansion is the key word the table names for round index r. -/
theorem kexpand_get (k : Nat → Word) (r : Fin 32) : (kexpand k).get r = k (keyOrder.getD r.val 0) := by
  rw [kexpand, Vector.get_ofFn, keyOrder_getD]

/-- Every lane of a register of the vector expansion is the scalar entry of the same round index. -/
theorem lane_kexpand8_get (k : Nat → Word) (r : Fin 32) (l : Fin 8) :
    lane ((kexpand8 k).get r) l.val = (kexpand k).get r := by
  rw [kexpand8, Vector.get_ofFn, lane_bcast8 _ l.isLt]

/-! ### The effects of SETKEY and SETKEYV -/

/-- `RK[r]` after SETKEY: the big-endian word of KEYIN at four times the key index. -/
theorem setkeyBody_rk_get (s : State) (r : Fin 32) :
    (setkeyBody s).rk.get r = be32 (s.buf .keyin) (4 * keyOrder.getD r.val 0) := by
  rw [setkeyBody_rk, kexpand_get, State.keyWord]

/-- Every lane of `VRK[r]` after SETKEYV: the same word. -/
theorem lane_setkeyvBody_vrk_get (s : State) (r : Fin 32) (l : Fin 8) :
    lane ((setkeyvBody s).vrk.get r) l.val = be32 (s.buf .keyin) (4 * keyOrder.getD r.val 0) := by
  rw [setkeyvBody_vrk, lane_kexpand8_get, kexpand_get, State.keyWord]

/-- SETKEY writes the scalar bank and KSV only. -/
theorem setkeyBody_frame (s : State) : setkeyBody s = { s with rk := (setkeyBody s).rk, ksv := (setkeyBody s).ksv } := rfl

/-- SETKEYV writes the vector bank and VKSV only. -/
theorem setkeyvBody_frame (s : State) :
    setkeyvBody s = { s with vrk := (setkeyvBody s).vrk, vksv := (setkeyvBody s).vksv } := rfl

/-! ### The statements -/

/-- Settles O9: SETKEY needs no schedule, so with ERR = 0 and its required LEN it answers `setkeyBody s`, whose bank, flag
and frame are the lemmas above. -/
theorem setkeyBuildsTheScalarSchedule : Obligations.SetkeyBuildsTheScalarSchedule := by
  refine ⟨by decide, checksFirst_of_fields (fun _ => rfl) (fun _ => rfl) (fun _ => rfl), fun s herr => ?_⟩
  have hexec : exec (.setkey 32) s = .next (setkeyBody s) := exec_of_ok herr rfl rfl
  exact ⟨setkeyBody s, hexec, setkeyBody_rk_get s, setkeyBody_ksv s, setkeyBody_frame s⟩

/-- Settles O10: likewise for SETKEYV and `setkeyvBody s`, the bank read lane by lane. -/
theorem setkeyvBuildsTheVectorSchedule : Obligations.SetkeyvBuildsTheVectorSchedule := by
  refine ⟨by decide, checksFirst_of_fields (fun _ => rfl) (fun _ => rfl) (fun _ => rfl), fun s herr => ?_⟩
  have hexec : exec (.setkeyv 32) s = .next (setkeyvBody s) := exec_of_ok herr rfl rfl
  exact ⟨setkeyvBody s, hexec, lane_setkeyvBody_vrk_get s, setkeyvBody_vksv s, setkeyvBody_frame s⟩

end Sys2Proof.Machine
end

section
/-! ENC1 (44_feistel_scalar.md R192): without its schedule it raises NoSchedule; with it, DOUT[0..7] is the reference
encryption of DIN[0..7] under RK, and everything else but the transient working registers is kept. -/

namespace Sys2Proof.Machine
open Sys2Proof.Machine.Ref

/-! ### The schedule check and the two halves of a block -/

/-- A command whose only failing check is the schedule's raises NoSchedule with its own word (60_exceptions.md R255). -/
theorem exec_of_no_schedule {i : Instr} {s : State} (herr : s.err = 0#4) (hlen : i.len = i.reqLen)
    (hsched : s.hasSchedule i = false) : exec i s = .next { s with err := 3#4, errcmd := encode i } := by
  rw [exec_eq_runChecked, runChecked_of_schedule herr hlen hsched, State.raise, EngineFault.code]

/-- A state whose block i of DOUT is the pair p, byte by byte, holds its first half in front of its second. -/
theorem doutHolds_of_blockByte {t : State} {p : Word × Word} {i : Nat}
    (h : ∀ q, q < 8 → t.buf .dout (8 * i + q) = blockByte p (8 * i + q)) :
    DoutHolds t (8 * i) p.1 ∧ DoutHolds t (8 * i + 4) p.2 := by
  refine ⟨fun q hq => ?first, fun q hq => ?second⟩
  case first =>
    rw [h q (by omega), blockByte, if_pos (by omega), show (8 * i + q) % 4 = q by omega, byteOf]
  case second =>
    rw [Nat.add_assoc, h (4 + q) (by omega), blockByte, if_neg (by omega), show (8 * i + (4 + q)) % 4 = q by omega, byteOf]

/-! ### The effect of ENC1 -/

/-- DOUT[0..3] and DOUT[4..7] are the halves of the enciphered block 0 of DIN, most significant byte first. -/
theorem doutHolds_enc1Body (s : State) :
    DoutHolds (enc1Body s) 0 (encipher (fourLookups s.tables) (scalarKey s) (dinBlock s 0)).1 ∧
      DoutHolds (enc1Body s) 4 (encipher (fourLookups s.tables) (scalarKey s) (dinBlock s 0)).2 := by
  rw [← roundF_eq_fourLookups]
  exact doutHolds_of_blockByte (i := 0) fun q hq => dout_enc1Body s (by omega)

/-- Every byte of the window outside DOUT[0..7] keeps its value. -/
theorem doutOnly_enc1Body (s : State) : DoutOnly s (enc1Body s) 8 := by
  intro a ha
  rw [dout_base] at ha
  rw [byteAt_enc1Body, if_neg (by omega), if_neg (by omega)]

/-- Besides DOUT, only the working registers and the number of free values drawn for them change (10_state.md R26). -/
theorem kept_enc1Body (s : State) : Kept s (enc1Body s) where
  tables := enc1Body_tables s
  rk := enc1Body_rk s
  ksv := enc1Body_ksv s
  vrk := enc1Body_vrk s
  vksv := enc1Body_vksv s
  err := enc1Body_err s
  errcmd := enc1Body_errcmd s
  pending := enc1Body_pending s
  observed := enc1Body_observed s
  epoch := enc1Body_epoch s
  unit := enc1Body_unit s

/-! ### The statement -/

/-- Settles O13: KSV is the schedule ENC1 asks for, so with ERR = 0 it decides between NoSchedule and `enc1Body s`, whose
result (the loop of R192 is the reference encipher, `enc1Work_pair`) and frame are the lemmas above. -/
theorem enc1EnciphersOneBlock : Obligations.Enc1EnciphersOneBlock := by
  have hword : encode (.enc1 8) = 0x00000803#32 := by decide
  refine ⟨hword, checksFirst_of_fields (fun _ => rfl) (fun _ => rfl) (fun _ => rfl), fun s herr hksv => ?noSchedule,
    fun s herr hksv => ?runs⟩
  case noSchedule => rw [exec_of_no_schedule (i := .enc1 8) herr rfl hksv, hword]
  case runs =>
    have hexec : exec (.enc1 8) s = .next (enc1Body s) := exec_of_ok herr rfl hksv
    obtain ⟨hfirst, hsecond⟩ := doutHolds_enc1Body s
    exact ⟨enc1Body s, hexec, hfirst, hsecond, doutOnly_enc1Body s, kept_enc1Body s⟩

end Sys2Proof.Machine
end

section
/-! ENC8 (46_feistel_vector.md R232): without its schedule it raises NoSchedule; with it, block i of DOUT is the reference
encryption of block i of DIN under lane i of VRK, and everything else but the transient working registers is kept. -/

namespace Sys2Proof.Machine
open Sys2Proof.Machine.Ref

/-! ### The effect of ENC8 -/

/-- DOUT[8i..8i+3] and DOUT[8i+4..8i+7] are the halves of block i of DIN enciphered under the keys of lane i, most significant
byte first. -/
theorem doutHolds_enc8Body (s : State) {i : Nat} (hi : i < 8) :
    DoutHolds (enc8Body s) (8 * i) (encipher (fourLookups s.tables) (laneKey s i) (dinBlock s i)).1 ∧
      DoutHolds (enc8Body s) (8 * i + 4) (encipher (fourLookups s.tables) (laneKey s i) (dinBlock s i)).2 := by
  rw [← roundF_eq_fourLookups]
  refine doutHolds_of_blockByte fun q hq => ?_
  have hblock : (8 * i + q) / 8 = i := by omega
  rw [dout_enc8Body s (by omega), hblock]

/-- Every byte of the window outside DOUT[0..63] keeps its value. -/
theorem doutOnly_enc8Body (s : State) : DoutOnly s (enc8Body s) 64 := by
  intro a ha
  rw [dout_base] at ha
  rw [byteAt_enc8Body, if_neg ha]

/-- Besides DOUT, only the working registers and the number of free values drawn for them change (10_state.md R26). -/
theorem kept_enc8Body (s : State) : Kept s (enc8Body s) where
  tables := enc8Body_tables s
  rk := enc8Body_rk s
  ksv := enc8Body_ksv s
  vrk := enc8Body_vrk s
  vksv := enc8Body_vksv s
  err := enc8Body_err s
  errcmd := enc8Body_errcmd s
  pending := enc8Body_pending s
  observed := enc8Body_observed s
  epoch := enc8Body_epoch s
  unit := enc8Body_unit s

/-! ### The statement -/

/-- Settles O14: VKSV is the schedule ENC8 asks for, so with ERR = 0 it decides between NoSchedule and `enc8Body s`, whose
result (lane i of the vector loop is the reference encipher of block i, `lane_vectorLast_pair`) and frame are the lemmas
above. -/
theorem enc8EnciphersEightBlocksLaneByLane : Obligations.Enc8EnciphersEightBlocksLaneByLane := by
  have hword : encode (.enc8 64) = 0x00004004#32 := by decide
  refine ⟨hword, checksFirst_of_fields (fun _ => rfl) (fun _ => rfl) (fun _ => rfl), fun s herr hvksv => ?noSchedule,
    fun s herr hvksv => ?runs⟩
  case noSchedule => rw [exec_of_no_schedule (i := .enc8 64) herr rfl hvksv, hword]
  case runs =>
    have hexec : exec (.enc8 64) s = .next (enc8Body s) := exec_of_ok herr rfl hvksv
    exact ⟨enc8Body s, hexec, fun _ hi => doutHolds_enc8Body s hi, doutOnly_enc8Body s, kept_enc8Body s⟩

end Sys2Proof.Machine
end

section
/-! Faults (60_exceptions.md): what a CMD write can answer while the engine runs is one of four cases, the three faults and the
command's own effect, and their ERR codes tell them apart; while it is halted a CMD write does nothing and every other access
works as before. From this the statements of R253 to R258. -/

namespace Sys2Proof.Machine
open Sys2Proof.Machine.Ref

/-! ### What a CMD write can answer -/

/-- The words that select a command: RSV = 0 and one of the six operation codes (30_encoding.md R82). -/
theorem not_illegalWord_iff {w : Word} :
    ¬ IllegalWord w ↔ rsvField w = 0#16 ∧ 1 ≤ (opcField w).toNat ∧ (opcField w).toNat ≤ 6 := by
  rw [IllegalWord, ← BitVec.toNat_inj (x := opcField w), BitVec.toNat_ofNat, not_or, not_ne_iff]
  exact and_congr_right fun _ => by omega

/-- Everything a CMD write of `w` can answer while ERR is 0, in the order of the checks of 30_encoding.md R80. -/
inductive RunningCmdAnswer (s : State) (w : Word) : State → Prop
  /-- IllegalCommand, 60_exceptions.md R253. -/
  | illegal (hw : IllegalWord w) : RunningCmdAnswer s w { s with err := 1#4, errcmd := w }
  /-- SizeMismatch, R254. -/
  | wrongLen (hw : ¬ IllegalWord w) (hlen : (lenField w).toNat ≠ requiredLen (opcField w)) :
    RunningCmdAnswer s w { s with err := 2#4, errcmd := w }
  /-- NoSchedule, R255. -/
  | noSchedule (i : Instr) (hd : decode w = .command i) (hlen : i.len = i.reqLen) (hsched : s.hasSchedule i = false) :
    RunningCmdAnswer s w { s with err := 3#4, errcmd := w }
  /-- No check fails and the command has its effect. -/
  | ran (i : Instr) (hd : decode w = .command i) (hlen : i.len = i.reqLen) (hsched : s.hasSchedule i = true) :
    RunningCmdAnswer s w (commandBody i s)

/-- A CMD write to a running engine answers by the first check that fails, or by the command's effect. -/
theorem step_cmd_running_cases {s t : State} {w : Word} (herr : s.err = 0#4)
    (h : step (offer s (.write32 0x0 w)) = .next t) : RunningCmdAnswer s w t := by
  by_cases hw : IllegalWord w
  · rw [step_cmd_illegal_running herr hw] at h
    cases h
    exact .illegal hw
  obtain ⟨i, hd⟩ := exists_decode_of_legal hw
  by_cases hlen : (lenField w).toNat = requiredLen (opcField w)
  · have hreq := (len_eq_requiredLen_iff hd).mp hlen
    cases hsched : s.hasSchedule i with
    | false =>
      rw [step_cmd_no_schedule herr hd hreq hsched] at h
      cases h
      exact .noSchedule i hd hreq hsched
    | true =>
      rw [step_cmd_command hd, runChecked_of_ok herr hreq hsched] at h
      cases h
      exact .ran i hd hreq hsched
  · rw [step_cmd_wrong_len herr hd hlen] at h
    cases h
    exact .wrongLen hw hlen

/-- The commands the schedule check can stop are the two encryptors, each by its own flag. -/
theorem encryptor_of_no_schedule {s : State} {i : Instr} (hlen : i.len = i.reqLen) (hsched : s.hasSchedule i = false) :
    (i = .enc1 8 ∧ s.ksv = false) ∨ (i = .enc8 64 ∧ s.vksv = false) := by
  cases i with
  | enc1 n =>
    cases hlen
    exact .inl ⟨rfl, hsched⟩
  | enc8 n =>
    cases hlen
    exact .inr ⟨rfl, hsched⟩
  | setkey n | setkeyv n | rndfn n | vrndfn n => exact absurd hsched.symm Bool.false_ne_true

/-! ### Reads that do not show the fault -/

theorem bufferRegion_ne_faultRegister {off : Nat} {r : Region} (hr : r = .status ∨ r = .errcmd) : bufferRegion off ≠ r := by
  rw [bufferRegion]
  rcases hr with rfl | rfl <;> split_ifs <;> exact Region.noConfusion

theorem bankRegion_ne_faultRegister {off : Nat} {r : Region} (hr : r = .status ∨ r = .errcmd) : bankRegion off ≠ r := by
  rw [bankRegion]
  rcases hr with rfl | rfl <;> split_ifs <;> exact Region.noConfusion

/-- STATUS and ERRCMD lie among the registers below 0x20 (20_memory.md R60). -/
theorem registerRegion_of_faultRegister {off : Nat} {r : Region} (hr : r = .status ∨ r = .errcmd)
    (h : regionOf off = some r) : registerRegion off = r := by
  rw [regionOf] at h
  split_ifs at h <;> rw [Option.some.injEq] at h
  · exact h
  · exact absurd h (bufferRegion_ne_faultRegister hr)
  · exact absurd h (bankRegion_ne_faultRegister hr)
  · rcases hr with rfl | rfl <;> exact Region.noConfusion h

/-- STATUS has one aligned offset. -/
theorem aligned_offset_of_status {off : Nat} (h : regionOf off = some .status) (ha : off % 4 = 0) : off = 0x4 := by
  have hreg := registerRegion_of_faultRegister (.inl rfl) h
  rw [registerRegion] at hreg
  split_ifs at hreg
  omega

/-- ERRCMD has one aligned offset. -/
theorem aligned_offset_of_errcmd {off : Nat} (h : regionOf off = some .errcmd) (ha : off % 4 = 0) : off = 0xC := by
  have hreg := registerRegion_of_faultRegister (.inr rfl) h
  rw [registerRegion] at hreg
  split_ifs at hreg
  omega

/-- STATUS and ERRCMD are the only words that show the fault. -/
theorem readWord_clearFault (s : State) {r : Region} (hstatus : r ≠ .status) (herrcmd : r ≠ .errcmd) :
    s.clearFault.readWord r = s.readWord r := by
  cases r with
  | status => exact absurd rfl hstatus
  | errcmd => exact absurd rfl herrcmd
  | cmd | ctrl | byte | rkwin | vrkwin | tblwin | gap => rfl

/-- An admitted 8-bit read returns the byte at its offset. -/
theorem returns_read8_of_admitted {off : Nat} (h : (HostEvent.read8 off).Admitted) (s : State) :
    Returns s (.read8 off) (.byte (s.byteAt off)) := by
  obtain ⟨b, i, hr⟩ := regionOf_of_inBuffers h
  obtain ⟨rfl, _, _⟩ := regionOf_eq_byte hr
  exact returns_byte_of_region hr s

/-- An admitted 32-bit read falls on a region, and on no buffer byte. -/
theorem region_of_admitted_read32 {off : Nat} (h : (HostEvent.read32 off).Admitted) :
    ∃ r, regionOf off = some r ∧ ∀ b i, r ≠ .byte b i := by
  obtain ⟨hlt, _, hbuf⟩ := h
  have hmapped : regionOf off ≠ none := fun hnone => absurd (regionOf_eq_none.mp hnone) (by omega)
  obtain ⟨r, hr⟩ := Option.ne_none_iff_exists'.mp hmapped
  exact ⟨r, hr, fun b i hb => regionOf_not_byte hbuf b i (hb ▸ hr)⟩

/-- An admitted 32-bit read returns a word, and one other than STATUS and ERRCMD reads the same with and without a fault. -/
theorem returns_read32_of_admitted {off : Nat} (h : (HostEvent.read32 off).Admitted) (s : State) :
    ∃ v, Returns s (.read32 off) (.word v) ∧
      (off ≠ 0x4 → off ≠ 0xC → Returns s.clearFault (.read32 off) (.word v)) := by
  obtain ⟨r, hr, hbyte⟩ := region_of_admitted_read32 h
  obtain ⟨v, hv⟩ := readWord_of_not_byte s hbyte
  obtain ⟨_, ha, _⟩ := h
  refine ⟨v, returns_word_of_region hr hv ha, fun hstatus herrcmd => returns_word_of_region hr ?_ ha⟩
  have hnotStatus : r ≠ .status := fun he => hstatus (aligned_offset_of_status (he ▸ hr) ha)
  have hnotErrcmd : r ≠ .errcmd := fun he => herrcmd (aligned_offset_of_errcmd (he ▸ hr) ha)
  rw [readWord_clearFault s hnotStatus hnotErrcmd, hv]

/-! ### The statements -/

/-- Settles O15: of the four answers of a running engine only the illegal word's has ERR = 1. -/
theorem illegalCommandIgnoresLen : Obligations.IllegalCommandIgnoresLen := by
  intro s w herr
  refine ⟨?raised, fun hw => ⟨_, step_cmd_illegal_running herr hw, rfl⟩⟩
  case raised =>
    rintro ⟨t, hstep, ht⟩
    cases step_cmd_running_cases herr hstep with
    | illegal hw => exact hw
    | wrongLen | noSchedule => exact absurd ht (by simp)
    | ran i => exact absurd ht (by simp [herr])

/-- Settles O16: only the wrong LEN's answer has ERR = 2, and a legal word with a wrong LEN has no other answer. -/
theorem wrongLengthRaisesSizeMismatch : Obligations.WrongLengthRaisesSizeMismatch := by
  refine ⟨fun s w herr => ⟨?raised, ?raises⟩, ?command⟩
  case raised =>
    rintro ⟨t, hstep, ht⟩
    cases step_cmd_running_cases herr hstep with
    | wrongLen hw hlen =>
      obtain ⟨hrsv, hlow, hhigh⟩ := not_illegalWord_iff.mp hw
      exact ⟨hrsv, hlow, hhigh, hlen⟩
    | illegal | noSchedule => exact absurd ht (by simp)
    | ran i => exact absurd ht (by simp [herr])
  case raises =>
    rintro ⟨hrsv, hlow, hhigh, hlen⟩
    obtain ⟨i, hd⟩ := exists_decode_of_legal (not_illegalWord_iff.mpr ⟨hrsv, hlow, hhigh⟩)
    exact ⟨_, step_cmd_wrong_len herr hd hlen, rfl⟩
  case command =>
    intro s i _ herr hlen
    rw [requiredLen_opc] at hlen
    rw [exec_eq_runChecked, runChecked_of_len herr hlen, State.raise, EngineFault.code]

/-- Settles O17: ERR = 3 is left by the schedule check alone, and that check stops only the two encryptors. -/
theorem noScheduleRaisedByTheEncryptorsOnly : Obligations.NoScheduleRaisedByTheEncryptorsOnly := by
  obtain ⟨_, _, henc1, _⟩ := enc1EnciphersOneBlock
  obtain ⟨_, _, henc8, _⟩ := enc8EnciphersEightBlocksLaneByLane
  refine ⟨henc1, henc8, fun i s t herr hexec ht => ?_⟩
  rw [exec_eq_runChecked] at hexec
  cases hexec
  rcases runChecked_cases i (commandBody i) s with
    ⟨hhalted, _⟩ | ⟨_, _, hrun⟩ | ⟨_, hlen, hsched, _⟩ | ⟨_, _, _, hrun⟩
  · exact absurd herr hhalted
  · exact absurd ht (by simp [hrun, EngineFault.code])
  · exact encryptor_of_no_schedule hlen hsched
  · exact absurd ht (by simp [hrun, herr])

/-- Settles O18: halted, nothing changes; running, either ERR stays or the answer is one of the three faults. -/
theorem faultEntryWritesErrAndErrcmdOnly : Obligations.FaultEntryWritesErrAndErrcmdOnly := by
  intro s t w hstep hchanged
  by_cases herr : s.err = 0#4
  · cases step_cmd_running_cases herr hstep with
    | illegal => exact ⟨rfl, .inl rfl⟩
    | wrongLen => exact ⟨rfl, .inr (.inl rfl)⟩
    | noSchedule => exact ⟨rfl, .inr (.inr rfl)⟩
    | ran i => exact absurd (commandBody_err s i) hchanged
  · rw [step_cmd_halted herr] at hstep
    cases hstep
    exact absurd rfl hchanged

/-- Settles O19: being halted is a condition of the CMD write alone; the other accesses follow the map as in every state. -/
theorem haltedEngineIgnoresCommandsOnly : Obligations.HaltedEngineIgnoresCommandsOnly := by
  intro s herr
  obtain ⟨hkeyin, hdin, _⟩ := hostWriteFollowsTheMap s
  obtain ⟨hset, hclear, _⟩ := ctrlWriteClearsTheFault s
  exact ⟨step_cmd_halted herr, fun _ hadm => returns_read8_of_admitted hadm s,
    fun _ hadm => returns_read32_of_admitted hadm s, hkeyin, hdin, hclear, hset⟩

end Sys2Proof.Machine
end

section
/-! The encoding (30_encoding.md): a word decodes exactly to the well-formed command it encodes, and the decoder written from
the table alone is the decoder, since a row looks at RSV and OPC only and the six rows carry the six operation codes. -/

namespace Sys2Proof
open Sys2Proof.Machine

/-! ### Decoding an encoding -/

/-- LEN fits its field, so every field of the word is the command's own (R81). -/
theorem decode_encode {i : Instr} (h : i.WellFormed) : decode (encode i) = .command i := by
  refine decode_eq_command.mpr ⟨rsvField_encode i, opcField_encode i, ?_⟩
  rw [lenField_encode, BitVec.toNat_ofNat, Nat.mod_eq_of_lt h]

/-- A decoded LEN is the value of an 8-bit field. -/
theorem wellFormed_of_decode {w : Word} {i : Instr} (h : decode w = .command i) : i.WellFormed := by
  obtain ⟨_, _, hlen⟩ := decode_eq_command.mp h
  rw [Instr.WellFormed, ← hlen]
  exact (lenField w).isLt

/-! ### The rows of the table -/

/-- The mask of R82 keeps RSV and OPC and drops LEN. -/
theorem and_rowMask (w : Word) : w &&& 0xFFFF00FF#32 = rsvField w ++ 0#8 ++ opcField w := by
  have hmask : 0xFFFF00FF#32 = BitVec.allOnes 16 ++ 0#8 ++ BitVec.allOnes 8 := by decide
  conv_lhs => rw [← word_of_fields w, hmask]
  rw [BitVec.and_append, BitVec.and_append, BitVec.and_allOnes, BitVec.and_zero, BitVec.and_allOnes]

/-- What the rows have in common: the mask, the operation code of their command as match word, its required LEN. -/
theorem commandRow_fields {r : CommandRow} (h : r ∈ commandTable) (n : Nat) :
    r.mask = 0xFFFF00FF#32 ∧ r.matchWord = 0#16 ++ 0#8 ++ (r.command n).opc ∧ r.len = (r.command n).reqLen ∧
      (r.command n).len = n := by
  simp only [commandTable, List.mem_cons, List.not_mem_nil, or_false] at h
  rcases h with rfl | rfl | rfl | rfl | rfl | rfl <;> exact ⟨rfl, by simp [Instr.opc], rfl, rfl⟩

/-- A row selects the words with RSV = 0 and its command's operation code. -/
theorem selects_iff {r : CommandRow} (h : r ∈ commandTable) (w : Word) (n : Nat) :
    r.selects w = true ↔ rsvField w = 0#16 ∧ opcField w = (r.command n).opc := by
  obtain ⟨hmask, hmatch, _⟩ := commandRow_fields h n
  rw [CommandRow.selects, beq_iff_eq, hmask, hmatch, and_rowMask]
  constructor
  · intro heq
    have hrsv := congrArg rsvField heq
    have hopc := congrArg opcField heq
    rw [rsvField_append, rsvField_append] at hrsv
    rw [opcField_append, opcField_append] at hopc
    exact ⟨hrsv, hopc⟩
  · rintro ⟨hrsv, hopc⟩
    rw [hrsv, hopc]

/-- Every command has its row. -/
theorem exists_row (i : Instr) : ∃ r ∈ commandTable, r.command i.len = i := by
  cases i with
  | setkey n => exact ⟨_, .head _, rfl⟩
  | setkeyv n => exact ⟨_, .tail _ (.head _), rfl⟩
  | enc1 n => exact ⟨_, .tail _ (.tail _ (.head _)), rfl⟩
  | enc8 n => exact ⟨_, .tail _ (.tail _ (.tail _ (.head _))), rfl⟩
  | rndfn n => exact ⟨_, .tail _ (.tail _ (.tail _ (.tail _ (.head _)))), rfl⟩
  | vrndfn n => exact ⟨_, .tail _ (.tail _ (.tail _ (.tail _ (.tail _ (.head _))))), rfl⟩

/-- The rows have one mask and six match words. -/
theorem commandTable_pairwise : commandTable.Pairwise fun r q => r.mask = q.mask ∧ r.matchWord ≠ q.matchWord := by decide

/-! ### The table decoder -/

/-- What the table decoder answers is what the decoder answers, with the required LEN. -/
theorem decode_of_decodeByTable {w : Word} {i : Instr} {n : Nat} (h : decodeByTable w = some (i, n)) :
    decode w = .command i ∧ n = i.reqLen := by
  obtain ⟨r, hfind, hr⟩ := Option.map_eq_some_iff.mp h
  cases hr
  have hmem := List.mem_of_find?_eq_some hfind
  obtain ⟨_, _, hreq, hlen⟩ := commandRow_fields hmem (lenField w).toNat
  have hsel : r.selects w = true := List.find?_some (p := fun q => CommandRow.selects q w) hfind
  obtain ⟨hrsv, hopc⟩ := (selects_iff hmem w (lenField w).toNat).mp hsel
  exact ⟨decode_eq_command.mpr ⟨hrsv, hopc, hlen.symm⟩, hreq⟩

/-- A word that decodes is selected by the row of its command, so the table decoder answers something. -/
theorem decodeByTable_ne_none {w : Word} {i : Instr} (h : decode w = .command i) : decodeByTable w ≠ none := by
  obtain ⟨r, hmem, hrow⟩ := exists_row i
  obtain ⟨hrsv, hopc, _⟩ := decode_eq_command.mp h
  have hsel : r.selects w = true := (selects_iff hmem w i.len).mpr ⟨hrsv, by rw [hrow, hopc]⟩
  rw [decodeByTable, Ne, Option.map_eq_none_iff, List.find?_eq_none]
  exact fun hnone => hnone r hmem hsel

theorem decodeByTable_eq_some_iff {w : Word} {i : Instr} {n : Nat} :
    decodeByTable w = some (i, n) ↔ decode w = .command i ∧ n = i.reqLen := by
  refine ⟨decode_of_decodeByTable, ?_⟩
  rintro ⟨hd, rfl⟩
  obtain ⟨⟨j, m⟩, hj⟩ := Option.ne_none_iff_exists'.mp (decodeByTable_ne_none hd)
  obtain ⟨hdj, rfl⟩ := decode_of_decodeByTable hj
  cases hd.symm.trans hdj
  exact hj

theorem decodeByTable_eq_none_iff {w : Word} : decodeByTable w = none ↔ ∃ e, decode w = .rejected e := by
  constructor
  · intro hnone
    cases hd : decode w with
    | command i => exact absurd hnone (decodeByTable_ne_none hd)
    | rejected e => exact ⟨e, rfl⟩
  · rintro ⟨e, he⟩
    rw [Option.eq_none_iff_forall_ne_some]
    rintro ⟨i, n⟩ hsome
    cases he.symm.trans (decode_of_decodeByTable hsome).1

/-! ### The words of a `cmd` line -/

theorem toNat_encode (i : Instr) : (encode i).toNat = i.opc.toNat + 256 * (i.len % 256) := by
  rw [encode, BitVec.toNat_append, BitVec.toNat_append, BitVec.toNat_ofNat, BitVec.toNat_ofNat, Nat.shiftLeft_eq,
    Nat.zero_mod, Nat.zero_shiftLeft, Nat.zero_or, Nat.mul_comm, ← Nat.two_pow_add_eq_or_of_lt i.opc.isLt, Nat.add_comm]

/-- `OPC | (n << 8)` is a sum, as long as the shifted n fits the word (R88). -/
theorem toNat_cmdLineWord {i : Instr} (h : i.len < 2 ^ 24) : (cmdLineWord i).toNat = i.opc.toNat + 256 * i.len := by
  have hopc : i.opc.toNat < 2 ^ 8 := i.opc.isLt
  have hshift : i.len * 2 ^ 8 < 2 ^ 32 := by omega
  rw [cmdLineWord, BitVec.toNat_or, BitVec.toNat_setWidth, BitVec.toNat_shiftLeft, BitVec.toNat_ofNat,
    Nat.mod_eq_of_lt (by omega : i.len < 2 ^ 32), Nat.shiftLeft_eq, Nat.mod_eq_of_lt hshift, Nat.mod_eq_of_lt (by omega),
    Nat.or_comm, Nat.mul_comm, ← Nat.two_pow_add_eq_or_of_lt hopc, Nat.add_comm]

theorem cmdLineWord_eq_encode {i : Instr} (h : i.WellFormed) : cmdLineWord i = encode i := by
  refine BitVec.eq_of_toNat_eq ?_
  rw [toNat_cmdLineWord (Nat.lt_trans h (by decide)), toNat_encode, Nat.mod_eq_of_lt h]

/-- RSV is what stands above the low sixteen bits (R81). -/
theorem toNat_rsvField (w : Word) : (rsvField w).toNat = w.toNat / 2 ^ 16 := by
  rw [rsvField, BitVec.extractLsb'_toNat, Nat.shiftRight_eq_div_pow, Nat.mod_eq_of_lt]
  have hw : w.toNat < 2 ^ 32 := w.isLt
  omega

/-- A length above the LEN field reaches RSV. -/
theorem rsvField_cmdLineWord_ne_zero {i : Instr} (hlow : 256 ≤ i.len) (hhigh : i.len < 2 ^ 24) :
    rsvField (cmdLineWord i) ≠ 0#16 := by
  intro hzero
  have hnat := congrArg BitVec.toNat hzero
  rw [toNat_rsvField, toNat_cmdLineWord hhigh, BitVec.toNat_ofNat] at hnat
  omega

/-! ### The statements -/

/-- Settles O1: a decoded LEN fits its field and the word is rebuilt from its fields; backwards the fields of an encoding are
the command's own. -/
theorem decodeAcceptsExactlyTheEncodings : Obligations.DecodeAcceptsExactlyTheEncodings := by
  refine fun w i => ⟨fun h => ⟨wellFormed_of_decode h, encode_of_decode h⟩, ?_⟩
  rintro ⟨hwf, rfl⟩
  exact decode_encode hwf

/-- Settles O2: two rows share the mask and differ in the match word, so no word is selected by both. -/
theorem tableDecoderAgreesWithDecoder : Obligations.TableDecoderAgreesWithDecoder := by
  refine ⟨fun _ _ _ => decodeByTable_eq_some_iff, fun _ => decodeByTable_eq_none_iff, fun w => ?_⟩
  refine commandTable_pairwise.imp ?_
  rintro r q ⟨hmask, hmatch⟩ hr
  rw [CommandRow.selects, beq_iff_eq, hmask] at hr
  rw [CommandRow.selects, beq_eq_false_iff_ne, hr]
  exact hmatch

/-- Settles O3: each word is the encoding of its command. -/
theorem sixCommandWordsDecode : Obligations.SixCommandWordsDecode :=
  ⟨decode_encode (i := .setkey 32) (by decide), decode_encode (i := .setkeyv 32) (by decide),
    decode_encode (i := .enc1 8) (by decide), decode_encode (i := .enc8 64) (by decide),
    decode_encode (i := .rndfn 8) (by decide), decode_encode (i := .vrndfn 64) (by decide)⟩

/-- Settles O57: below 256 the word of the line is the command's encoding, from 256 on it has a bit of RSV set. -/
theorem commandLinesWriteOpcAndShiftedLength : Obligations.CommandLinesWriteOpcAndShiftedLength := by
  refine fun i => ⟨cmdLineWord i, rfl, toNat_cmdLineWord, fun hlen => ?fits, fun hlow hhigh => ?tooLong⟩
  case fits =>
    rw [cmdLineWord_eq_encode hlen]
    exact ⟨rfl, decode_encode hlen⟩
  case tooLong => exact decode_rejected_iff.mpr (.inl (rsvField_cmdLineWord_ne_zero hlow hhigh))

end Sys2Proof
end

section
/-! Everything one answered step can change, said once and finer than by the kind of event: nothing but the host's own lists, a
byte of KEYIN or DIN, ERR and ERRCMD, what one complete command writes, the fault, or all that the reset event loses. From this
the statements about what may change what and the invariant of reachable states. -/

namespace Sys2Proof.Machine
open Sys2Proof.Machine.Ref

/-! ### Everything one step can change -/

/-- What an answered step changes, with the event that did it. -/
inductive StepChange (s : State) : State → Prop
  /-- The host's own lists only: an idle step, a read, an ignored write, a command while halted. -/
  | quiet (waiting : List HostEvent) (shown : List Reading) :
    StepChange s { s with pending := waiting, observed := shown }
  /-- The reset event (70_reset_and_hazards.md R280). -/
  | reset (rest : List HostEvent) (h : s.pending = .reset :: rest) : StepChange s (s.withPending rest).resetEvent
  /-- A byte written to KEYIN or DIN (20_memory.md R62). -/
  | stored (b : Buffer) (i : Nat) (v : Byte) (rest : List HostEvent) (hb : b ≠ .dout) (hi : i < b.size)
    (h : s.pending = .write8 (b.base + i) v :: rest) : StepChange s ((s.withPending rest).storeBuf b i [v])
  /-- A fault is entered (60_exceptions.md R256). -/
  | raised (f : EngineFault) (w : Word) (rest : List HostEvent) (h : s.pending = .write32 0x0 w :: rest) (herr : s.err = 0#4) :
    StepChange s ((s.withPending rest).raise f w)
  /-- A complete command word runs its command (30_encoding.md R80). -/
  | ran (i : Instr) (rest : List HostEvent) (h : s.pending = .write32 0x0 (encode i) :: rest) (herr : s.err = 0#4)
    (hlen : i.len = i.reqLen) : StepChange s (commandBody i (s.withPending rest))
  /-- The fault is cleared (10_state.md R32). -/
  | cleared (v : Word) (rest : List HostEvent) (h : s.pending = .write32 0x8 v :: rest) (hv : v.getLsbD 0 = true) :
    StepChange s (s.withPending rest).clearFault

/-- A step that only takes an event is quiet. -/
theorem StepChange.of_withPending (s : State) (rest : List HostEvent) : StepChange s (s.withPending rest) :=
  .quiet rest s.observed

/-- A CMD write of a word that decodes does nothing, enters a fault, or runs. -/
theorem StepChange.of_command {s : State} {w : Word} {i : Instr} {rest : List HostEvent}
    (h : s.pending = .write32 0x0 w :: rest) (hd : decode w = .command i) :
    StepChange s (runChecked i (commandBody i) (s.withPending rest)) := by
  obtain rfl := encode_of_decode hd
  rcases runChecked_cases i (commandBody i) (s.withPending rest) with
    ⟨_, hrun⟩ | ⟨herr, _, hrun⟩ | ⟨herr, _, _, hrun⟩ | ⟨herr, hlen, _, hrun⟩ <;> rw [hrun]
  · exact .of_withPending s rest
  · exact .raised _ _ rest h herr
  · exact .raised _ _ rest h herr
  · exact .ran i rest h herr hlen

/-- A CMD write of an illegal word does nothing or enters a fault. -/
theorem StepChange.of_illegal {s : State} {w : Word} {rest : List HostEvent} (h : s.pending = .write32 0x0 w :: rest) :
    StepChange s (illegalWrite w (s.withPending rest)) := by
  by_cases herr : (s.withPending rest).err = 0#4
  · rw [illegalWrite_of_running herr]
    exact .raised _ w rest h herr
  · rw [illegalWrite_of_halted herr]
    exact .of_withPending s rest

theorem step_change {s t : State} (h : step s = .next t) : StepChange s t := by
  cases step_effect h with
  | idle => exact .quiet s.pending s.observed
  | reset rest hp => exact .reset rest hp
  | read8 off r rest => exact .quiet rest (s.observed ++ [r])
  | read32 off r rest => exact .quiet rest (s.observed ++ [r])
  | write8 b i v rest hb hi hp => exact .stored b i v rest hb hi hp
  | ignored8 off v rest => exact .of_withPending s rest
  | ignored32 off v rest => exact .of_withPending s rest
  | command w i rest hp hd => exact .of_command hp hd
  | illegal w e rest hp => exact .of_illegal hp
  | ctrl v rest hp =>
    cases hv : v.getLsbD 0 with
    | true =>
      rw [writeCtrl_of_set _ hv]
      exact .cleared v rest hp hv
    | false =>
      rw [writeCtrl_of_clear _ hv]
      exact .of_withPending s rest

/-! ### What a command leaves as it was -/

/-- Only SETKEY writes the scalar bank and its flag (43_key_schedule.md R172). -/
theorem commandBody_scalar (s : State) {i : Instr} (h : ∀ n, i ≠ .setkey n) :
    (commandBody i s).rk = s.rk ∧ (commandBody i s).ksv = s.ksv := by
  cases i with
  | setkey n => exact absurd rfl (h n)
  | setkeyv n => exact ⟨setkeyvBody_rk s, setkeyvBody_ksv s⟩
  | enc1 n => exact ⟨enc1Body_rk s, enc1Body_ksv s⟩
  | enc8 n => exact ⟨enc8Body_rk s, enc8Body_ksv s⟩
  | rndfn n => exact ⟨rndfnBody_rk s, rndfnBody_ksv s⟩
  | vrndfn n => exact ⟨vrndfnBody_rk s, vrndfnBody_ksv s⟩

/-- Only SETKEYV writes the vector bank and its flag (43_key_schedule.md R173). -/
theorem commandBody_vector (s : State) {i : Instr} (h : ∀ n, i ≠ .setkeyv n) :
    (commandBody i s).vrk = s.vrk ∧ (commandBody i s).vksv = s.vksv := by
  cases i with
  | setkey n => exact ⟨setkeyBody_vrk s, setkeyBody_vksv s⟩
  | setkeyv n => exact absurd rfl (h n)
  | enc1 n => exact ⟨enc1Body_vrk s, enc1Body_vksv s⟩
  | enc8 n => exact ⟨enc8Body_vrk s, enc8Body_vksv s⟩
  | rndfn n => exact ⟨rndfnBody_vrk s, rndfnBody_vksv s⟩
  | vrndfn n => exact ⟨vrndfnBody_vrk s, vrndfnBody_vksv s⟩

/-- A command writes its own bytes of DOUT and no other byte (10_state.md R34). -/
theorem doutOnly_commandBody (s : State) (i : Instr) : DoutOnly s (commandBody i s) (resultBytes i) := by
  cases i with
  | setkey n => exact fun a _ => byteAt_setkeyBody s a
  | setkeyv n => exact fun a _ => byteAt_setkeyvBody s a
  | enc1 n => exact doutOnly_enc1Body s
  | enc8 n => exact doutOnly_enc8Body s
  | rndfn n => exact doutOnly_rndfnBody s
  | vrndfn n => exact doutOnly_vrndfnBody s

/-- SETKEY is the only complete command that can move the scalar bank or KSV; its word is 0x00002001. -/
theorem setkey_of_scalar_change {s : State} {i : Instr} (hlen : i.len = i.reqLen)
    (h : (commandBody i s).rk ≠ s.rk ∨ (commandBody i s).ksv ≠ s.ksv) : encode i = 0x00002001#32 := by
  by_cases hi : ∃ n, i = .setkey n
  · obtain ⟨n, rfl⟩ := hi
    cases hlen
    decide
  · obtain ⟨hrk, hksv⟩ := commandBody_scalar s fun n hn => hi ⟨n, hn⟩
    exact absurd h (by simp [hrk, hksv])

/-- SETKEYV is the only complete command that can move the vector bank or VKSV; its word is 0x00002002. -/
theorem setkeyv_of_vector_change {s : State} {i : Instr} (hlen : i.len = i.reqLen)
    (h : (commandBody i s).vrk ≠ s.vrk ∨ (commandBody i s).vksv ≠ s.vksv) : encode i = 0x00002002#32 := by
  by_cases hi : ∃ n, i = .setkeyv n
  · obtain ⟨n, rfl⟩ := hi
    cases hlen
    decide
  · obtain ⟨hvrk, hvksv⟩ := commandBody_vector s fun n hn => hi ⟨n, hn⟩
    exact absurd h (by simp [hvrk, hvksv])

/-- KSV and VKSV are never cleared by a command. -/
theorem commandBody_keeps_flags (s : State) (i : Instr) :
    (s.ksv = true → (commandBody i s).ksv = true) ∧ (s.vksv = true → (commandBody i s).vksv = true) := by
  cases i <;> simp [commandBody]

/-- No answered step changes the number `State.unit` (60_exceptions.md R270). -/
theorem unit_of_step {s t : State} (h : step s = .next t) : t.unit = s.unit := by
  cases step_change h with
  | ran i => exact commandBody_unit _ i
  | reset | quiet | stored | raised | cleared => simp

/-- A flag that keeps its value has not moved. -/
theorem flag_kept {P : Prop} {a b x : Bool} (h : b = a) (hs : a = x) (ht : b = !x) : P := by
  subst h hs
  exact absurd ht (Bool.self_ne_not b)

/-! ### The buffer bytes after a step -/

/-- A byte that reads differently after a step was lost by reset, written by the host, or is DOUT written by a command. -/
theorem byteAt_change {s t : State} {a : Nat} (h : step s = .next t) (ha : t.byteAt a ≠ s.byteAt a) :
    (∃ rest, s.pending = .reset :: rest) ∨
    (∃ v rest, s.pending = .write8 a v :: rest ∧ a < 0x80) ∨
    (∃ i rest, s.pending = .write32 0x0 (encode i) :: rest ∧ i.len = i.reqLen ∧ 0x80 ≤ a ∧ a < 0x80 + resultBytes i) := by
  cases step_change h with
  | reset rest hp => exact .inl ⟨rest, hp⟩
  | stored b i v rest hb hi hp =>
    by_cases he : a = b.base + i
    · subst he
      refine .inr (.inl ⟨v, rest, hp, ?_⟩)
      cases b with
      | keyin | din => simp only [Buffer.base, Buffer.size] at hi ⊢; omega
      | dout => exact absurd rfl hb
    · exact absurd (byteAt_storeBuf_byte_of_ne _ v he) ha
  | ran i rest hp herr hlen =>
    by_cases hin : 0x80 ≤ a ∧ a < 0x80 + resultBytes i
    · exact .inr (.inr ⟨i, rest, hp, hlen, hin⟩)
    · exact absurd (doutOnly_commandBody _ i a hin) ha
  | quiet | raised | cleared => exact absurd rfl ha

/-- A byte in front of DOUT is the host's: a command never writes it (10_state.md section 9). -/
theorem host_wrote_of_byteAt_change {s t : State} {a : Nat} (h : step s = .next t) (hlow : a < 0x80)
    (ha : t.byteAt a ≠ s.byteAt a) : ∃ rest, s.pending = .reset :: rest ∨ ∃ v, s.pending = .write8 a v :: rest := by
  rcases byteAt_change h ha with ⟨rest, hp⟩ | ⟨v, rest, hp, _⟩ | ⟨i, rest, _, _, hdout, _⟩
  · exact ⟨rest, .inl hp⟩
  · exact ⟨rest, .inr ⟨v, hp⟩⟩
  · omega

/-- The complete words that write DOUT, and how much of it (10_state.md R34). -/
theorem encode_of_resultBytes {i : Instr} {n : Nat} (hlen : i.len = i.reqLen) (h : n < resultBytes i) :
    (encode i = 0x00000803#32 ∧ n < 8) ∨ encode i = 0x00004004#32 ∨ (encode i = 0x00000805#32 ∧ n < 4) ∨
      (encode i = 0x00004006#32 ∧ n < 32) := by
  cases i with
  | setkey | setkeyv => exact absurd h (Nat.not_lt_zero n)
  | enc1 =>
    cases hlen
    exact .inl ⟨by decide, h⟩
  | enc8 =>
    cases hlen
    exact .inr (.inl (by decide))
  | rndfn =>
    cases hlen
    exact .inr (.inr (.inl ⟨by decide, h⟩))
  | vrndfn =>
    cases hlen
    exact .inr (.inr (.inr ⟨by decide, h⟩))

/-! ### The statements -/

/-- Settles O28: none of the changes is to the bank. -/
theorem tableBankNeverChanges : Obligations.TableBankNeverChanges := by
  intro s t h
  cases step_change h with
  | ran i => exact commandBody_tables _ i
  | reset | quiet | stored | raised | cleared => simp

/-- Settles O29: of the changes only the reset and a command that ran touch a bank, and of the commands only its own. -/
theorem banksWrittenByTheirCommandsOnly : Obligations.BanksWrittenByTheirCommandsOnly := by
  intro s t h
  cases step_change h with
  | reset rest hp => exact ⟨fun _ => ⟨rest, .inl hp⟩, fun _ => ⟨rest, .inl hp⟩⟩
  | ran i rest hp herr hlen =>
    refine ⟨fun hrk => ⟨rest, .inr ?_⟩, fun hvrk => ⟨rest, .inr ?_⟩⟩
    · rw [hp, setkey_of_scalar_change hlen (.inl hrk)]
    · rw [hp, setkeyv_of_vector_change hlen (.inl hvrk)]
  | quiet | stored | raised | cleared => exact ⟨absurd rfl, absurd rfl⟩

/-- Settles O30: a KEYIN or DIN offset lies below DOUT, a DOUT offset is no host write. -/
theorem buffersWrittenByTheirOwnersOnly : Obligations.BuffersWrittenByTheirOwnersOnly := by
  intro s t h
  refine ⟨fun i hi => host_wrote_of_byteAt_change h ?_, fun i hi => host_wrote_of_byteAt_change h ?_, fun i hi ha => ?dout⟩
  · rw [keyin_base]; omega
  · rw [din_base]; omega
  case dout =>
    rcases byteAt_change h ha with ⟨rest, hp⟩ | ⟨v, rest, _, hlow⟩ | ⟨j, rest, hp, hlen, _, hin⟩
    · exact ⟨rest, .inl hp⟩
    · rw [dout_base] at hlow; omega
    · rw [dout_base] at hin
      exact ⟨rest, .inr ⟨_, hp, encode_of_resultBytes hlen (Nat.lt_of_add_lt_add_left hin)⟩⟩

/-- Settles O21: each change moves only the flags of its own cause. -/
theorem flagsChangeOnlyAsListed : Obligations.FlagsChangeOnlyAsListed := by
  intro s t h
  cases step_change h with
  | reset rest hp =>
    exact ⟨fun _ ht => absurd ht (by simp), fun _ _ => ⟨rest, hp⟩, fun _ ht => absurd ht (by simp), fun _ _ => ⟨rest, hp⟩,
      fun _ ht => absurd rfl ht, fun _ _ => ⟨by simp, rest, .inl hp⟩⟩
  | raised f w rest hp herr =>
    exact ⟨flag_kept rfl, flag_kept rfl, flag_kept rfl, flag_kept rfl,
      fun _ _ => ⟨w, rest, hp, rfl⟩, fun hs => absurd herr hs⟩
  | ran i rest hp herr hlen =>
    obtain ⟨hksv, hvksv⟩ := commandBody_keeps_flags (s.withPending rest) i
    have herr' : (commandBody i (s.withPending rest)).err = s.err := commandBody_err _ i
    refine ⟨fun hs ht => ⟨rest, ?_, herr⟩, fun hs ht => ?_, fun hs ht => ⟨rest, ?_, herr⟩, fun hs ht => ?_,
      fun _ ht => absurd (herr'.trans herr) ht, fun hs => absurd herr hs⟩
    · rw [hp, setkey_of_scalar_change hlen (.inr (by rw [ht, withPending_ksv, hs]; decide))]
    · exact flag_kept (hksv hs) rfl ht
    · rw [hp, setkeyv_of_vector_change hlen (.inr (by rw [ht, withPending_vksv, hs]; decide))]
    · exact flag_kept (hvksv hs) rfl ht
  | cleared v rest hp hv =>
    exact ⟨flag_kept rfl, flag_kept rfl, flag_kept rfl, flag_kept rfl, fun _ ht => absurd rfl ht,
      fun _ _ => ⟨rfl, rest, .inr ⟨0x8, v, hp, rfl, hv⟩⟩⟩
  | quiet | stored =>
    exact ⟨flag_kept rfl, flag_kept rfl, flag_kept rfl, flag_kept rfl, fun hs ht => absurd hs ht, fun _ ht => absurd rfl ht⟩

end Sys2Proof.Machine
end

section
/-! The invariant of reachable states: one lemma for each change a step can make, and the reset state. The commands that
write DOUT share one lemma, since all they need is that their bytes are buffer bytes. -/

namespace Sys2Proof.Machine
open Sys2Proof.Machine.Ref

/-! ### The written bytes -/

/-- The two facts the invariant states of the memory: written bytes in rising order, and only bytes of the buffers. -/
structure CanonicalBuffers (m : Memory) : Prop where
  memory : m.wf
  buffers : ∀ c ∈ m, inBuffers c.1

theorem CanonicalBuffers.nil : CanonicalBuffers [] := ⟨List.Pairwise.nil, fun _ hc => absurd hc List.not_mem_nil⟩

/-- Bytes stored inside the buffers keep both. -/
theorem CanonicalBuffers.writeBytes {m : Memory} (h : CanonicalBuffers m) {a : Nat} {bs : List Byte} (hlo : 0x20 ≤ a)
    (hhi : a + bs.length ≤ 0xC0) : CanonicalBuffers (m.writeBytes a bs) := by
  refine ⟨Memory.writeBytes_wf h.memory a bs, fun c hc => ?_⟩
  rcases Memory.mem_writeBytes hc with hm | ⟨hlow, hhigh⟩
  · exact h.buffers c hm
  · exact ⟨by omega, by omega⟩

/-- So does a store within one buffer. -/
theorem CanonicalBuffers.storeBuf {s : State} (h : CanonicalBuffers s.mem) {b : Buffer} {o : Nat} {bs : List Byte}
    (hi : o + bs.length ≤ b.size) : CanonicalBuffers (s.storeBuf b o bs).mem := by
  rw [storeBuf_mem]
  refine h.writeBytes ?_ ?_ <;> cases b <;> simp only [Buffer.base, Buffer.size] at hi ⊢ <;> omega

theorem CanonicalBuffers.putDout {s : State} (h : CanonicalBuffers s.mem) {o : Nat} {w : Word} (hi : o + 4 ≤ 64) :
    CanonicalBuffers (s.putDout o w).mem := h.storeBuf (b := .dout) hi

theorem CanonicalBuffers.storeBuf_vstore {s : State} (h : CanonicalBuffers s.mem) {o : Nat} {v : VReg} (hi : o + 32 ≤ 64) :
    CanonicalBuffers (s.storeBuf .dout o (vstoreBytes v)).mem := h.storeBuf (by rwa [vstoreBytes_length])

theorem CanonicalBuffers.store8 {s : State} (h : CanonicalBuffers s.mem) (w : Work) : CanonicalBuffers (s.store8 w).mem := by
  have hfirst : CanonicalBuffers (({ s with work := w } : State).storeBuf .dout 0 (vstoreBytes w.va)).mem :=
    CanonicalBuffers.storeBuf_vstore h (by decide)
  exact hfirst.storeBuf_vstore (by decide)

/-- No command stores outside DOUT. -/
theorem CanonicalBuffers.commandBody {s : State} (h : CanonicalBuffers s.mem) (i : Instr) :
    CanonicalBuffers (commandBody i s).mem := by
  cases i with
  | setkey => rwa [Machine.commandBody, setkeyBody_mem]
  | setkeyv => rwa [Machine.commandBody, setkeyvBody_mem]
  | enc1 =>
    rw [Machine.commandBody, enc1Body, releaseWork_mem]
    exact CanonicalBuffers.putDout (CanonicalBuffers.putDout h (by decide)) (by decide)
  | enc8 =>
    rw [Machine.commandBody, enc8Body, releaseWork_mem]
    exact h.store8 _
  | rndfn =>
    rw [Machine.commandBody, rndfnBody]
    exact h.putDout (by decide)
  | vrndfn =>
    rw [Machine.commandBody, vrndfnBody, releaseWork_mem]
    exact CanonicalBuffers.storeBuf_vstore (s := { s with work := _ }) h (by decide)

/-! ### The schedules -/

/-- The form R24 of 10_state.md gives a valid schedule: its key words in the order of `keyIndex`. -/
theorem keyIndex_form (k : Nat → Word) (r : Nat) : k (keyIndex r) = if r < 24 then k (r % 8) else k (31 - r) := by
  rw [keyIndex]
  split_ifs <;> rfl

theorem kexpand_form (k : Nat → Word) (r : Fin 32) :
    (kexpand k).get r = if r.val < 24 then k (r.val % 8) else k (31 - r.val) := by
  rw [kexpand, Vector.get_ofFn]
  exact keyIndex_form k r.val

/-! ### The invariant, change by change -/

section
variable {sbox : SBox} {s : State}

theorem State.Inv.canonical (h : s.Inv sbox) : CanonicalBuffers s.mem := ⟨h.memory, h.buffers⟩

/-- The host's own lists are no part of the invariant. -/
theorem State.Inv.quiet (h : s.Inv sbox) (waiting : List HostEvent) (shown : List Reading) :
    ({ s with pending := waiting, observed := shown } : State).Inv sbox :=
  { tables := h.tables, memory := h.memory, buffers := h.buffers, errCode := h.errCode, errcmd := h.errcmd,
    scalar := h.scalar, vector := h.vector }

/-- The reset event keeps the bank and leaves nothing the other clauses speak of. -/
theorem State.Inv.resetEvent (h : s.Inv sbox) : s.resetEvent.Inv sbox where
  tables := by rw [resetEvent_tables]; exact h.tables
  memory := by rw [resetEvent_mem]; exact CanonicalBuffers.nil.memory
  buffers := by rw [resetEvent_mem]; exact CanonicalBuffers.nil.buffers
  errCode := by simp
  errcmd := by simp
  scalar := by simp
  vector := by simp

/-- A state that differs in written bytes and working registers only, and whose bytes are canonical, has the invariant. -/
theorem State.Inv.of_kept {t : State} (h : s.Inv sbox) (hk : Kept s t) (hm : CanonicalBuffers t.mem) : t.Inv sbox where
  tables := hk.tables ▸ h.tables
  memory := hm.memory
  buffers := hm.buffers
  errCode := hk.err ▸ h.errCode
  errcmd := by rw [hk.err, hk.errcmd]; exact h.errcmd
  scalar := by rw [hk.ksv, hk.rk]; exact h.scalar
  vector := by rw [hk.vksv, hk.vrk]; exact h.vector

theorem State.Inv.storeBuf_byte (h : s.Inv sbox) {b : Buffer} {i : Nat} (hi : i < b.size) (v : Byte) :
    (s.storeBuf b i [v]).Inv sbox :=
  h.of_kept ⟨rfl, rfl, rfl, rfl, rfl, rfl, rfl, rfl, rfl, rfl, rfl⟩ (h.canonical.storeBuf hi)

/-- The three fault codes are 1 to 3, so a fault entered leaves ERR at most 3 and not 0. -/
theorem State.Inv.raise (h : s.Inv sbox) (f : EngineFault) (w : Word) : (s.raise f w).Inv sbox where
  tables := h.tables
  memory := h.memory
  buffers := h.buffers
  errCode := by rw [raise_err]; cases f <;> decide
  errcmd hzero := absurd hzero (EngineFault.code_ne_zero f)
  scalar := h.scalar
  vector := h.vector

theorem State.Inv.clearFault (h : s.Inv sbox) : s.clearFault.Inv sbox where
  tables := h.tables
  memory := h.memory
  buffers := h.buffers
  errCode := by simp
  errcmd _ := rfl
  scalar := h.scalar
  vector := h.vector

/-- SETKEY leaves the scalar bank in the form of the schedule. -/
theorem State.Inv.setkeyBody (h : s.Inv sbox) : (setkeyBody s).Inv sbox where
  tables := by rw [setkeyBody_tables]; exact h.tables
  memory := by rw [setkeyBody_mem]; exact h.memory
  buffers := by rw [setkeyBody_mem]; exact h.buffers
  errCode := by rw [setkeyBody_err]; exact h.errCode
  errcmd := by rw [setkeyBody_err, setkeyBody_errcmd]; exact h.errcmd
  scalar _ := ⟨s.keyWord, fun r => by rw [setkeyBody_rk, kexpand_form]⟩
  vector := by rw [setkeyBody_vksv, setkeyBody_vrk]; exact h.vector

/-- SETKEYV leaves every lane of the vector bank in it. -/
theorem State.Inv.setkeyvBody (h : s.Inv sbox) : (setkeyvBody s).Inv sbox where
  tables := by rw [setkeyvBody_tables]; exact h.tables
  memory := by rw [setkeyvBody_mem]; exact h.memory
  buffers := by rw [setkeyvBody_mem]; exact h.buffers
  errCode := by rw [setkeyvBody_err]; exact h.errCode
  errcmd := by rw [setkeyvBody_err, setkeyvBody_errcmd]; exact h.errcmd
  scalar := by rw [setkeyvBody_ksv, setkeyvBody_rk]; exact h.scalar
  vector _ := ⟨s.keyWord, fun r l => by rw [setkeyvBody_vrk, lane_kexpand8_get, kexpand_form]⟩

theorem State.Inv.commandBody (h : s.Inv sbox) (i : Instr) : (commandBody i s).Inv sbox := by
  have hmem := h.canonical.commandBody i
  cases i with
  | setkey => exact h.setkeyBody
  | setkeyv => exact h.setkeyvBody
  | enc1 => exact h.of_kept (kept_enc1Body s) hmem
  | enc8 => exact h.of_kept (kept_enc8Body s) hmem
  | rndfn => exact h.of_kept (kept_rndfnBody s) hmem
  | vrndfn => exact h.of_kept (kept_vrndfnBody s) hmem

/-- Taking an event out of the queue keeps the invariant. -/
theorem State.Inv.withPending (h : s.Inv sbox) (rest : List HostEvent) : (s.withPending rest).Inv sbox :=
  h.quiet rest s.observed

end

/-! ### The reset state -/

/-- The configured bank is built from the S-box entry by entry (40_sbox_tables.md R115, R120). -/
theorem tlookup_reset (j : Fin 4) (b : Byte) : tlookup State.reset.tables j b = tableEntry configuredSBox j b := by
  rw [reset_eq_resetOf, resetOf_tables, tlookup_buildTables]

/-- Cleared flags and no fault read as 0 in STATUS. -/
theorem status_eq_zero {s : State} (hksv : s.ksv = false) (hvksv : s.vksv = false) (herr : s.err = 0#4) :
    s.status = 0#32 := by
  rw [State.status, hksv, hvksv, herr]
  decide

/-! ### The statements -/

/-- Settles O34: each change a step can make keeps the invariant. -/
theorem everyStepKeepsTheInvariant : Obligations.EveryStepKeepsTheInvariant := by
  intro sbox s t hinv h
  cases step_change h with
  | quiet waiting shown => exact hinv.quiet waiting shown
  | reset rest => exact (hinv.withPending rest).resetEvent
  | stored b i v rest hb hi => exact (hinv.withPending rest).storeBuf_byte hi v
  | raised f w rest => exact (hinv.withPending rest).raise f w
  | ran i rest => exact (hinv.withPending rest).commandBody i
  | cleared v rest => exact (hinv.withPending rest).clearFault

/-- Settles O32: the fields of the reset state, and the bank built from the configured S-box. -/
theorem resetStateHoldsTheStatedValues : Obligations.ResetStateHoldsTheStatedValues := by
  have hstatus : State.reset.status = 0#32 := status_eq_zero (resetOf_ksv 0) (resetOf_vksv 0) (resetOf_err 0)
  have hmem : State.reset.mem.wf := by
    rw [reset_eq_resetOf, resetOf_mem]
    exact CanonicalBuffers.nil.memory
  exact ⟨resetOf_ksv 0, resetOf_vksv 0, resetOf_err 0, resetOf_errcmd 0, hstatus, hmem, tlookup_reset⟩

/-- Settles O35: the bank is the configured one and every other clause is about nothing yet. -/
theorem resetStateHasTheInvariant : Obligations.ResetStateHasTheInvariant where
  tables := tlookup_reset
  memory := by rw [reset_eq_resetOf, resetOf_mem]; exact CanonicalBuffers.nil.memory
  buffers := by rw [reset_eq_resetOf, resetOf_mem]; exact CanonicalBuffers.nil.buffers
  errCode := by simp [reset_eq_resetOf]
  errcmd := by simp [reset_eq_resetOf]
  scalar := by simp [reset_eq_resetOf]
  vector := by simp [reset_eq_resetOf]

end Sys2Proof.Machine
end

section
/-! Which host accesses are answered and how a list of them runs: an access is answered exactly when its offset has a region of
its width, a run is one answered access after the other, and the lines of a script are such runs. -/

namespace Sys2Proof.Machine
open Sys2Proof.Machine.Ref

/-! ### Which accesses are answered -/

/-- The byte regions are the offsets of the three buffers (20_memory.md R60). -/
theorem inBuffers_iff {off : Nat} : inBuffers off ↔ ∃ b i, regionOf off = some (.byte b i) :=
  ⟨regionOf_of_inBuffers, fun ⟨_, _, hr⟩ => (regionOf_eq_byte hr).2.2⟩

/-- The 32-bit accesses the interface admits fall on the aligned offsets of word regions and gaps (R58). -/
theorem admitted_read32_iff {off : Nat} :
    (HostEvent.read32 off).Admitted ↔ off % 4 = 0 ∧ ∃ r, regionOf off = some r ∧ ∀ b i, r ≠ .byte b i := by
  constructor
  · intro h
    refine ⟨?_, region_of_admitted_read32 h⟩
    obtain ⟨_, ha, _⟩ := h
    exact ha
  · rintro ⟨ha, r, hr, hbyte⟩
    refine ⟨?_, ha, fun hbuf => ?_⟩
    · by_contra hpast
      rw [regionOf_eq_none.mpr (by omega)] at hr
      cases hr
    · obtain ⟨b, i, hb⟩ := regionOf_of_inBuffers hbuf
      exact hbyte b i (Option.some.inj (hr.symm.trans hb))

/-- Reads and writes of 32 bits are admitted at the same offsets. -/
theorem admitted_write32_iff {off : Nat} {v : Word} :
    (HostEvent.write32 off v).Admitted ↔ off % 4 = 0 ∧ ∃ r, regionOf off = some r ∧ ∀ b i, r ≠ .byte b i :=
  admitted_read32_iff

/-- An 8-bit read is answered at byte regions only (R58). -/
theorem inBuffers_of_hostRead8 {off : Nat} {s t : State} (h : hostRead8 off s = .next t) : inBuffers off := by
  rw [hostRead8] at h
  split at h
  · cases h
  · exact inBuffers_iff.mpr ⟨_, _, ‹_›⟩
  · cases h

/-- An 8-bit write is answered at byte regions only. -/
theorem inBuffers_of_hostWrite8 {off : Nat} {v : Byte} {s t : State} (h : hostWrite8 off v s = .next t) : inBuffers off := by
  rw [hostWrite8] at h
  split at h
  · cases h
  · exact inBuffers_iff.mpr ⟨_, _, ‹_›⟩
  · exact inBuffers_iff.mpr ⟨_, _, ‹_›⟩
  · cases h

/-- A 32-bit read is answered at the aligned offsets of word regions and gaps only. -/
theorem admitted_of_hostRead32 {off : Nat} {s t : State} (h : hostRead32 off s = .next t) :
    (HostEvent.read32 off).Admitted := by
  rw [hostRead32] at h
  split at h
  · cases h
  next r hr =>
    split at h
    · cases h
    next v hv =>
      have hbyte : ∀ b i, r ≠ .byte b i := by
        rintro b i rfl
        cases hv
      split at h
      next ha => exact admitted_read32_iff.mpr ⟨ha, r, hr, hbyte⟩
      · cases h

/-- A 32-bit write likewise. -/
theorem admitted_of_hostWrite32 {off : Nat} {v : Word} {s t : State} (h : hostWrite32 off v s = .next t) :
    (HostEvent.write32 off v).Admitted := by
  rw [hostWrite32] at h
  split at h
  · cases h
  · cases h
  next r hbyte hr =>
    split at h
    next ha => exact admitted_write32_iff.mpr ⟨ha, r, hr, hbyte⟩
    · cases h

/-! ### What an answered access leaves -/

/-- What a step leaves of the host's lists and of the bank, when the event showed the host `n` values: the waiting events and the
bank as they were, the values shown so far and `n` more. -/
structure Answers (s t : State) (n : Nat) : Prop where
  pending : t.pending = s.pending
  tables : t.tables = s.tables
  observed : ∃ vs : List Reading, t.observed = s.observed ++ vs ∧ vs.length = n

/-- An access that shows nothing. -/
theorem Answers.silent {s t : State} (hp : t.pending = s.pending) (ht : t.tables = s.tables) (ho : t.observed = s.observed) :
    Answers s t 0 := ⟨hp, ht, [], by rw [ho, List.append_nil], rfl⟩

theorem Answers.observe (s : State) (r : Reading) : Answers s (s.observe r) 1 := ⟨rfl, rfl, [r], rfl, rfl⟩

/-- A command, checked or not, shows nothing. -/
theorem answers_runChecked (i : Instr) (s : State) : Answers s (runChecked i (commandBody i) s) 0 := by
  rcases runChecked_cases i (commandBody i) s with ⟨_, hrun⟩ | ⟨_, _, hrun⟩ | ⟨_, _, _, hrun⟩ | ⟨_, _, _, hrun⟩ <;> rw [hrun]
  · exact .silent rfl rfl rfl
  · exact .silent rfl rfl rfl
  · exact .silent rfl rfl rfl
  · exact .silent (commandBody_pending s i) (commandBody_tables s i) (commandBody_observed s i)

theorem answers_illegalWrite (w : Word) (s : State) : Answers s (illegalWrite w s) 0 := by
  rw [illegalWrite]
  split_ifs <;> exact .silent rfl rfl rfl

/-- Every CMD write is answered (30_encoding.md R80). -/
theorem writeCmd_answers (w : Word) (s : State) : ∃ t, writeCmd w s = .next t ∧ Answers s t 0 := by
  cases hd : decode w with
  | command i => exact ⟨_, writeCmd_command hd s, answers_runChecked i s⟩
  | rejected e => exact ⟨_, writeCmd_rejected hd s, answers_illegalWrite w s⟩

theorem answers_writeCtrl (v : Word) (s : State) : Answers s (s.writeCtrl v) 0 := by
  rw [State.writeCtrl]
  split_ifs <;> exact .silent rfl rfl rfl

/-- A word region or a gap answers every write (20_memory.md R62). -/
theorem writeWord_answers {r : Region} (h : ∀ b i, r ≠ .byte b i) (v : Word) (s : State) :
    ∃ t, writeWord r v s = .next t ∧ Answers s t 0 := by
  cases r with
  | cmd => exact writeCmd_answers v s
  | ctrl => exact ⟨_, rfl, answers_writeCtrl v s⟩
  | byte b i => exact absurd rfl (h b i)
  | status | errcmd | rkwin | vrkwin | tblwin | gap => exact ⟨s, rfl, .silent rfl rfl rfl⟩

/-- An admitted event is answered, and shows the host a value exactly when it is a read. -/
theorem performEvent_answers {e : HostEvent} (h : e.Admitted) (s : State) :
    ∃ t, performEvent e s = .next t ∧ Answers s t (if isRead e then 1 else 0) := by
  cases e with
  | reset => exact ⟨s.resetEvent, rfl, .silent (by simp) (by simp) (by simp)⟩
  | read8 off =>
    obtain ⟨b, i, hr⟩ := regionOf_of_inBuffers h
    exact ⟨_, hostRead8_byte hr s, .observe s _⟩
  | read32 off =>
    obtain ⟨ha, r, hr, hbyte⟩ := admitted_read32_iff.mp h
    obtain ⟨v, hv⟩ := readWord_of_not_byte s hbyte
    exact ⟨_, hostRead32_word hr hv ha, .observe s _⟩
  | write8 off v =>
    obtain ⟨b, i, hr⟩ := regionOf_of_inBuffers h
    by_cases hb : b = .dout
    · subst hb
      exact ⟨s, hostWrite8_dout hr v s, .silent rfl rfl rfl⟩
    · exact ⟨_, hostWrite8_byte hr hb v s, .silent rfl rfl rfl⟩
  | write32 off v =>
    obtain ⟨ha, r, hr, hbyte⟩ := admitted_write32_iff.mp h
    rw [performEvent, hostWrite32_word hr hbyte ha]
    exact writeWord_answers hbyte v s

/-- An event that is answered is one the interface admits. -/
theorem admitted_of_performEvent {e : HostEvent} {s t : State} (h : performEvent e s = .next t) : e.Admitted := by
  cases e with
  | reset => trivial
  | read8 off => exact inBuffers_of_hostRead8 h
  | read32 off => exact admitted_of_hostRead32 h
  | write8 off v => exact inBuffers_of_hostWrite8 h
  | write32 off v => exact admitted_of_hostWrite32 h

/-! ### Runs -/

/-- A run of no events takes the queue away and nothing else. -/
theorem runEvents_nil (s : State) : runEvents [] s = .next (s.withPending []) := rfl

/-- A run performs its first event and goes on from the state that leaves. -/
theorem runEvents_cons {e : HostEvent} {es : List HostEvent} {s t : State} (h : performEvent e (s.withPending es) = .next t)
    (hp : t.pending = es) : runEvents (e :: es) s = runEvents es t := by
  have hstep : step (s.withPending (e :: es)) = .next t := h
  subst hp
  rw [runEvents, List.length_cons, runSteps, hstep]
  rfl

/-! ### The lines of a script -/

/-- A run of byte writes inside KEYIN or DIN stores the bytes. -/
theorem runEvents_byteWrites {b : Buffer} (hb : b ≠ .dout) {o : Nat} {bs : List Byte} (hi : o + bs.length ≤ b.size)
    (s : State) (hr : ∀ i, i < b.size → regionOf (b.base + i) = some (.byte b i)) :
    runEvents (byteWrites (b.base + o) bs) s = .next ((s.storeBuf b o bs).withPending []) := by
  induction bs generalizing o s with
  | nil => rfl
  | cons v vs ih =>
    rw [List.length_cons] at hi
    have hfirst : performEvent (.write8 (b.base + o) v) (s.withPending (byteWrites (b.base + o + 1) vs)) =
        .next ((s.withPending (byteWrites (b.base + o + 1) vs)).storeBuf b o [v]) :=
      hostWrite8_byte (hr o (by omega)) hb v _
    rw [byteWrites, runEvents_cons hfirst rfl, Nat.add_assoc, ih (by omega)]
    rfl

/-- What a run of byte writes leaves, as the statement about a `wr` line words it. -/
theorem byteWrites_line {b : Buffer} (hb : b ≠ .dout) {o : Nat} {bs : List Byte} (hi : o + bs.length ≤ b.size)
    (s : State) (hr : ∀ i, i < b.size → regionOf (b.base + i) = some (.byte b i)) :
    ∃ t, runEvents (byteWrites (b.base + o) bs) s = .next t ∧ t = { s with mem := t.mem, pending := [] } ∧
      (∀ i (h : i < bs.length), t.buf b (o + i) = bs[i]) ∧
      ∀ a, ¬ (b.base + o ≤ a ∧ a < b.base + o + bs.length) → t.byteAt a = s.byteAt a := by
  refine ⟨_, runEvents_byteWrites hb hi s hr, rfl, fun i h => ?_, fun a ha => ?_⟩
  · rw [buf_eq_byteAt, byteAt_withPending, storeBuf_eq_store, ← Nat.add_assoc, byteAt_store_of_inside s h]
  · rw [byteAt_withPending, storeBuf_eq_store, byteAt_store_of_outside s ha]

/-- A run of byte reads inside DOUT shows the bytes in the order of the reads. -/
theorem runEvents_byteReads (is : List Nat) (s : State) (h : ∀ i ∈ is, i < 64) :
    runEvents (is.map fun i => .read8 (Buffer.dout.base + i)) s =
      .next { s with pending := [], observed := s.observed ++ is.map fun i => .byte (s.buf .dout i) } := by
  induction is generalizing s with
  | nil => rw [List.map_nil, List.map_nil, List.append_nil, runEvents_nil, State.withPending]
  | cons i is ih =>
    have hr : regionOf (Buffer.dout.base + i) = some (.byte .dout i) := regionOf_dout (h i List.mem_cons_self)
    have hfirst : performEvent (.read8 (Buffer.dout.base + i)) (s.withPending (is.map fun j => .read8 (Buffer.dout.base + j))) =
        .next ((s.withPending (is.map fun j => .read8 (Buffer.dout.base + j))).observe (.byte (s.buf .dout i))) :=
      hostRead8_byte hr _
    rw [List.map_cons, runEvents_cons hfirst rfl, ih _ fun j hj => h j (List.mem_cons_of_mem i hj),
      List.map_cons, observe_observed, withPending_observed, List.append_assoc]
    rfl

/-! ### The statements -/

/-- Settles O25: the two directions are `performEvent_answers` and `admitted_of_performEvent`. -/
theorem exactlyTheAdmittedAccessesAreAnswered : Obligations.ExactlyTheAdmittedAccessesAreAnswered := by
  intro s e
  rw [step_offer]
  refine ⟨fun hadm => ?_, fun ⟨t, ht⟩ => admitted_of_performEvent ht⟩
  obtain ⟨t, ht, _⟩ := performEvent_answers hadm s
  exact ⟨t, ht⟩

/-- Settles O54, by induction on the events: the first is answered and leaves the others waiting. -/
theorem admittedRunsComplete : Obligations.AdmittedRunsComplete := by
  intro es
  induction es with
  | nil => exact fun s _ => ⟨_, runEvents_nil s, rfl, rfl, [], (List.append_nil _).symm, rfl⟩
  | cons e es ih =>
    intro s hadm
    obtain ⟨t, ht, hans⟩ := performEvent_answers (hadm e List.mem_cons_self) (s.withPending es)
    obtain ⟨u, hrun, hpend, htables, hobs⟩ := ih t fun d hd => hadm d (List.mem_cons_of_mem e hd)
    obtain ⟨vs, hvs, hlen⟩ := hans.observed
    obtain ⟨us, hus, hulen⟩ := hobs
    refine ⟨u, (runEvents_cons ht hans.pending).trans hrun, hpend, htables.trans hans.tables, vs ++ us, ?_, ?_⟩
    · rw [hus, hvs, withPending_observed, List.append_assoc]
    · rw [List.length_append, hlen, hulen, List.countP_cons, Nat.add_comm]

/-- Settles O58: both lines are runs of byte writes inside their buffer. -/
theorem byteLinesWriteAscendingIndices : Obligations.ByteLinesWriteAscendingIndices :=
  ⟨fun s _ _ hi => byteWrites_line (b := .keyin) (by decide) hi s fun _ => regionOf_keyin,
    fun s _ _ hi => byteWrites_line (b := .din) (by decide) hi s fun _ => regionOf_din⟩

/-- Settles O59: the line reads the indices o, o + 1, … of DOUT. -/
theorem byteLinesReadAscendingIndices : Obligations.ByteLinesReadAscendingIndices := by
  intro s o n hn
  have hrun := runEvents_byteReads ((List.range n).map (o + ·)) s ?inside
  case inside =>
    intro i hi
    obtain ⟨j, hj, rfl⟩ := List.mem_map.mp hi
    have hlt := List.mem_range.mp hj
    omega
  rw [List.map_map, List.map_map] at hrun
  rw [ScriptLine.events, byteReads]
  simpa only [Function.comp_def, Nat.add_assoc] using hrun

/-- Settles O5: the word decodes, so the CMD write is exec of its command. -/
theorem stepRunsTheDecodedCommand : Obligations.StepRunsTheDecodedCommand := by
  intro s w rest i hp hd
  rw [step_cons hp, performEvent, hostWrite32_cmd, writeCmd_command hd, exec_eq_runChecked, State.withPending]

/-- Settles O6. -/
theorem idleEngineKeepsItsState : Obligations.IdleEngineKeepsItsState := fun _ => step_nil

/-- Settles O8: decoding or not, the word is answered, and no CMD write shows the host anything. -/
theorem everyCommandWriteCompletes : Obligations.EveryCommandWriteCompletes := by
  intro s w rest hp
  obtain ⟨t, ht, hans⟩ := writeCmd_answers w (s.withPending rest)
  obtain ⟨vs, hvs, hlen⟩ := hans.observed
  rw [List.eq_nil_of_length_eq_zero hlen, List.append_nil] at hvs
  exact ⟨t, by rw [step_cons hp, performEvent, hostWrite32_cmd, ht], hans.pending, hvs⟩

end Sys2Proof.Machine
end

section
/-! What the host sees of the registers, where the window lies, and the instances of a platform: STATUS bit by bit (10_state.md
R31), the offsets past the window, the addresses from BASE on (20_memory.md R60), the reset event (70_reset_and_hazards.md R280)
and the instances that share nothing (60_exceptions.md R270). -/

namespace Sys2Proof.Machine
open Sys2Proof.Machine.Ref

/-! ### Addresses of the window -/

/-- An address of the window is BASE plus an offset below 0x2000 (20_memory.md R60). -/
theorem windowOffset_eq_some {s : State} {addr off : Nat} :
    s.windowOffset addr = some off ↔ off < 0x2000 ∧ addr = Config.base s.unit + off := by
  rw [State.windowOffset, windowSize]
  split_ifs with h
  · rw [Option.some.injEq]
    omega
  · refine ⟨fun hn => (nomatch hn), fun hoff => absurd ?_ h⟩
    omega

/-! ### STATUS -/

/-- STATUS bit by bit (10_state.md R31). -/
theorem getLsbD_status (s : State) (i : Nat) : s.status.getLsbD i =
    if i = 0 then s.ksv else if i = 1 then s.vksv else if 4 ≤ i ∧ i < 8 then s.err.getLsbD (i - 4) else false := by
  simp only [State.status, flagBit, BitVec.getLsbD_append, BitVec.getLsbD_zero, BitVec.getLsbD_ofBool]
  rcases (by omega : i = 0 ∨ i = 1 ∨ (2 ≤ i ∧ i < 4) ∨ (4 ≤ i ∧ i < 8) ∨ 8 ≤ i) with rfl | rfl | hgap | hcode | hhigh
  · simp
  · simp
  · rw [if_neg (by omega), if_neg (by omega), if_pos (by omega), if_neg (by omega), if_neg (by omega), if_neg (by omega)]
  · rw [if_neg (by omega), if_neg (by omega), if_neg (by omega), if_pos (by omega), if_neg (by omega), if_neg (by omega),
      if_pos hcode, Nat.sub_sub, Nat.sub_sub]
  · rw [if_neg (by omega), if_neg (by omega), if_neg (by omega), if_neg (by omega), if_neg (by omega), if_neg (by omega),
      if_neg (by omega)]

/-- The fields of STATUS. -/
theorem status_fields (s : State) : s.status.getLsbD 0 = s.ksv ∧ s.status.getLsbD 1 = s.vksv ∧
    s.status.extractLsb' 2 2 = 0#2 ∧ s.status.extractLsb' 4 4 = s.err ∧ s.status.extractLsb' 8 24 = 0#24 := by
  refine ⟨by rw [getLsbD_status, if_pos rfl], by rw [getLsbD_status, if_neg Nat.one_ne_zero, if_pos rfl], ?_, ?_, ?_⟩ <;>
    ext j hj <;> rw [BitVec.getElem_extractLsb', getLsbD_status, if_neg (by omega), if_neg (by omega)]
  · rw [if_neg (by omega), BitVec.getElem_zero]
  · rw [if_pos (by omega), Nat.add_sub_cancel_left, BitVec.getLsbD_eq_getElem hj]
  · rw [if_neg (by omega), BitVec.getElem_zero]

/-! ### The statements -/

/-- Settles O22: STATUS is the word region at 0x4, computed from the flags. -/
theorem statusShowsTheFlags : Obligations.StatusShowsTheFlags := by
  have hread : ∀ s : State, Returns s (.read32 0x4) (.word s.status) := fun s =>
    returns_word_of_region regionOf_status rfl rfl
  obtain ⟨_, _, _, _, hreset, _⟩ := resetStateHoldsTheStatedValues
  refine ⟨hreset ▸ hread State.reset, fun s => ⟨s.status, hread s, ?_⟩⟩
  obtain ⟨hksv, hvksv, hlow, herr, hhigh⟩ := status_fields s
  exact ⟨hksv, hvksv, hlow, herr, hhigh, fun w =>
    ignored_write32_of_readOnly ⟨by decide, by decide, by simp [inBuffers]⟩ (by decide) (by decide) s⟩

/-- Settles O26: past the window no region answers. -/
theorem accessPastTheWindowFaults : Obligations.AccessPastTheWindowFaults := by
  intro s off v w hoff
  have hnone := regionOf_eq_none.mpr hoff
  simp only [step_offer, performEvent, hostRead8, hostRead32, hostWrite8, hostWrite32, hnone, and_self]

/-- Settles O27: BASE is four times a number, and the offset of an address is what it exceeds BASE by. -/
theorem windowAddressesAreBasePlusOffset : Obligations.WindowAddressesAreBasePlusOffset := by
  refine fun s => ⟨?_, fun off hoff => windowOffset_eq_some.mpr ⟨hoff, rfl⟩, fun addr off => windowOffset_eq_some.mp⟩
  rw [Config.base]
  exact Nat.mul_mod_right 4 _

/-- Settles O33: the reset event is always answered and leaves the flags clear, so STATUS reads 0. -/
theorem resetEventClearsTheFlags : Obligations.ResetEventClearsTheFlags := by
  intro sbox s htables
  have hstatus : s.resetEvent.status = 0#32 := status_eq_zero (resetEvent_ksv s) (resetEvent_vksv s) (resetEvent_err s)
  have hread : Returns s.resetEvent (.read32 0x4) (.word s.resetEvent.status) := returns_word_of_region regionOf_status rfl rfl
  refine ⟨s.resetEvent, by rw [step_offer, performEvent], resetEvent_ksv s, resetEvent_vksv s, resetEvent_err s,
    resetEvent_errcmd s, ?_, resetEvent_pending s, resetEvent_observed s, hstatus ▸ hread⟩
  rw [resetEvent_tables]
  exact htables

/-- Settles O55: the platform step is the step of the state at place k, put back there. -/
theorem platformInstancesShareNothing : Obligations.PlatformInstancesShareNothing := by
  intro k p q h
  rw [platformStep] at h
  split at h
  next hk =>
    cases h
    exact ⟨rfl, fun _ _ => rfl, fun s hs => absurd (hk.symm.trans hs) (by simp)⟩
  next s hk =>
    split at h
    next t ht =>
      cases h
      refine ⟨List.length_set, fun j hj => List.getElem?_set_ne hj.symm, fun s' hs' => ?_⟩
      cases hk.symm.trans hs'
      obtain ⟨hlt, _⟩ := List.getElem?_eq_some_iff.mp hk
      exact ⟨t, ht, List.getElem?_set_self hlt, unit_of_step ht⟩
    · cases h
    · cases h

/-- Settles O56: at place k stands `State.resetOf k`. -/
theorem platformInstancesStartApart : Obligations.PlatformInstancesStartApart := by
  intro n
  refine ⟨by rw [Platform.reset, List.length_map, List.length_range], ?_, fun s hs => ?_⟩
  · rw [Platform.reset, List.pairwise_map]
    refine List.pairwise_lt_range.imp fun hlt => ?_
    rw [resetOf_unit, resetOf_unit]
    exact Nat.ne_of_lt hlt
  · obtain ⟨k, _, rfl⟩ := List.mem_map.mp hs
    exact ⟨by rw [reset_eq_resetOf, resetOf_tables, resetOf_tables], resetOf_ksv k, resetOf_vksv k, resetOf_err k,
      resetOf_errcmd k⟩

end Sys2Proof.Machine
end

section
/-! The tables (40_sbox_tables.md R110 to R118) and the round function built on them (41_round_scalar.md R130 to R135): an entry
is the substituted byte in its place, rotated; the four lookups put the four places together, so that F is add, substitute,
rotate; and each of the three is injective when the rows are permutations. -/

namespace Sys2Proof.Machine
open BitVec

/-! ### The substitution, byte by byte -/

/-- A word's bit is a bit of the byte it lies in. -/
theorem getLsbD_byteOf (w : Word) (p : Nat) {i : Nat} (hi : i < 8) : (byteOf w p).getLsbD i = w.getLsbD (8 * p + i) := by
  simp only [byteOf, getLsbD_extractLsb', hi, decide_true, Bool.true_and]

/-- The two nibbles of a byte of a word (R112). -/
theorem byteOf_nibbles (w : Word) (p : Nat) :
    (byteOf w p).extractLsb' 4 4 = nibbleOf w (2 * p + 1) ∧ (byteOf w p).extractLsb' 0 4 = nibbleOf w (2 * p) := by
  constructor <;> ext i hi <;>
    rw [getElem_extractLsb', getLsbD_byteOf _ _ (by omega), nibbleOf, getElem_extractLsb'] <;> exact congrArg _ (by omega)

/-- The substitution acts nibble by nibble, row i at nibble i (R113). -/
theorem nibbleOf_sub32 (s : SBox) (w : Word) (i : Fin 8) : nibbleOf (sub32 s w) i.val = sboxAt s i (nibbleOf w i.val) := by
  ext q hq
  simp only [sub32, nibbleOf, getElem_extractLsb', getLsbD_append]
  fin_cases i <;> (simp (disch := omega) only [if_pos, if_neg]; rw [← getLsbD_eq_getElem]; exact congrArg _ (by omega))

/-- Two bytes with the same two nibbles are equal. -/
theorem ext_nibbles {b c : Byte} (hhigh : b.extractLsb' 4 4 = c.extractLsb' 4 4) (hlow : b.extractLsb' 0 4 = c.extractLsb' 0 4) :
    b = c := by
  have hsplit : ∀ x : Byte, x.extractLsb' 4 4 ++ x.extractLsb' 0 4 = x := fun x => by
    rw [extractLsb'_append_extractLsb'_eq_extractLsb' (by decide), extractLsb'_eq_self]
  rw [← hsplit b, ← hsplit c, hhigh, hlow]

/-- The two nibbles of a substituted byte (R114). -/
theorem subByte_nibbles (s : SBox) (p : Fin 4) (b : Byte) :
    (subByte s p b).extractLsb' 4 4 = sboxAt s ⟨2 * p.val + 1, by omega⟩ (b.extractLsb' 4 4) ∧
      (subByte s p b).extractLsb' 0 4 = sboxAt s ⟨2 * p.val, by omega⟩ (b.extractLsb' 0 4) :=
  ⟨extractLsb'_append_eq_left, extractLsb'_append_eq_right⟩

/-- The word substitution acts byte by byte (R114). -/
theorem byteOf_sub32 (s : SBox) (w : Word) (p : Fin 4) : byteOf (sub32 s w) p.val = subByte s p (byteOf w p.val) := by
  obtain ⟨hhigh, hlow⟩ := subByte_nibbles s p (byteOf w p.val)
  obtain ⟨hhigh', hlow'⟩ := byteOf_nibbles (sub32 s w) p.val
  obtain ⟨hhighw, hloww⟩ := byteOf_nibbles w p.val
  apply ext_nibbles
  · rw [hhigh, hhigh', hhighw, ← nibbleOf_sub32]
  · rw [hlow, hlow', hloww, ← nibbleOf_sub32]

/-! ### The place of a byte in its word -/

/-- A byte shifted to position p of a word, as R115 writes it. -/
def placed (p : Nat) (b : Byte) : Word := b.setWidth 32 <<< (8 * p)

theorem tableEntry_eq_placed (s : SBox) (j : Fin 4) (b : Byte) :
    tableEntry s j b = rotl32 (placed (tablePosition j).val (subByte s (tablePosition j) b)) rotAmount := rfl

/-- The placed byte is the byte at its position and zero elsewhere. -/
theorem getLsbD_placed (p : Nat) (b : Byte) {i : Nat} (hi : i < 32) :
    (placed p b).getLsbD i = if 8 * p ≤ i then b.getLsbD (i - 8 * p) else false := by
  rw [placed, getLsbD_shiftLeft, getLsbD_setWidth]
  split_ifs with h
  · simp [hi, Nat.not_lt.mpr h, show i - 8 * p < 32 by omega]
  · simp [Nat.lt_of_not_le h]

theorem byteOf_placed {p : Nat} (hp : p < 4) (b : Byte) : byteOf (placed p b) p = b := by
  ext i hi
  rw [← getLsbD_eq_getElem hi, getLsbD_byteOf _ _ hi, getLsbD_placed _ _ (by omega), if_pos (by omega), Nat.add_sub_cancel_left,
    getLsbD_eq_getElem hi]

/-- A placed byte leaves every other position zero. -/
theorem byteOf_placed_ne {p q : Nat} (hq : q < 4) (h : p ≠ q) (b : Byte) : byteOf (placed p b) q = 0#8 := by
  ext i hi
  rw [← getLsbD_eq_getElem hi, getLsbD_byteOf _ _ hi, getLsbD_placed _ _ (by omega), getElem_zero]
  split_ifs
  · exact getLsbD_of_ge b _ (by omega)
  · rfl

theorem byteOf_xor (v w : Word) (p : Nat) : byteOf (v ^^^ w) p = byteOf v p ^^^ byteOf w p := by
  ext i hi
  simp only [byteOf, getElem_extractLsb', getLsbD_xor, getElem_xor]

/-- A word is the xor of its placed bytes. -/
theorem xor_placed (w : Word) :
    placed 3 (byteOf w 3) ^^^ placed 2 (byteOf w 2) ^^^ placed 1 (byteOf w 1) ^^^ placed 0 (byteOf w 0) = w := by
  refine ext_bytes fun p hp => ?_
  simp only [byteOf_xor]
  interval_cases p <;> simp [byteOf_placed, byteOf_placed_ne]

/-! ### Rotation and injectivity -/

/-- The rotation loses nothing. -/
theorem rotl32_injective {n : Nat} (hn : n < 32) {v w : Word} (h : rotl32 v n = rotl32 w n) : v = w := by
  ext i hi
  have hbit := congrArg (fun x : Word => x.getLsbD ((i + n) % 32)) h
  simp only [getLsbD_rotl32 _ hn (Nat.mod_lt _ (by decide) : (i + n) % 32 < 32)] at hbit
  rwa [show ((i + n) % 32 + 32 - n) % 32 = i by omega, getLsbD_eq_getElem hi, getLsbD_eq_getElem hi] at hbit

/-- A permutation row gives different nibbles different substitutes (R112). -/
theorem sboxAt_injective {s : SBox} (h : s.Permutes) (i : Fin 8) {v w : Nibble} (hvw : sboxAt s i v = sboxAt s i w) : v = w :=
  BitVec.eq_of_toFin_eq (h i v.toFin w.toFin hvw)

theorem subByte_injective {s : SBox} (h : s.Permutes) (p : Fin 4) {b c : Byte} (hbc : subByte s p b = subByte s p c) : b = c := by
  obtain ⟨hhighb, hlowb⟩ := subByte_nibbles s p b
  obtain ⟨hhighc, hlowc⟩ := subByte_nibbles s p c
  rw [hbc] at hhighb hlowb
  exact ext_nibbles (sboxAt_injective h _ (hhighb.symm.trans hhighc)) (sboxAt_injective h _ (hlowb.symm.trans hlowc))

theorem sub32_injective {s : SBox} (h : s.Permutes) {v w : Word} (hvw : sub32 s v = sub32 s w) : v = w := by
  refine ext_bytes fun p hp => subByte_injective h ⟨p, hp⟩ ?_
  rw [← byteOf_sub32, ← byteOf_sub32, hvw]

theorem tableEntry_injective {s : SBox} (h : s.Permutes) (j : Fin 4) {b c : Byte} (hbc : tableEntry s j b = tableEntry s j c) :
    b = c := by
  rw [tableEntry_eq_placed, tableEntry_eq_placed] at hbc
  have hplaced := rotl32_injective (by decide) hbc
  have hsub := congrArg (fun w => byteOf w (tablePosition j).val) hplaced
  simp only [byteOf_placed (tablePosition j).isLt] at hsub
  exact subByte_injective h _ hsub

/-! ### The four lookups -/

/-- The entry of a word's own byte is that byte of the substitute in its place, rotated (R115). -/
theorem tableEntry_byteOf (s : SBox) (w : Word) (j : Fin 4) : tableEntry s j (byteOf w (tablePosition j).val) =
    rotl32 (placed (tablePosition j).val (byteOf (sub32 s w) (tablePosition j).val)) rotAmount := by
  rw [tableEntry_eq_placed, byteOf_sub32]

/-- The four entries of the bytes of a word are the placed bytes of its substitute, rotated (R116). -/
theorem xor_tableEntry (s : SBox) (w : Word) :
    tableEntry s 0 (byteOf w 3) ^^^ tableEntry s 1 (byteOf w 2) ^^^ tableEntry s 2 (byteOf w 1) ^^^ tableEntry s 3 (byteOf w 0) =
      rotl32 (sub32 s w) rotAmount := by
  have h0 : tableEntry s 0 (byteOf w 3) = rotl32 (placed 3 (byteOf (sub32 s w) 3)) rotAmount := tableEntry_byteOf s w 0
  have h1 : tableEntry s 1 (byteOf w 2) = rotl32 (placed 2 (byteOf (sub32 s w) 2)) rotAmount := tableEntry_byteOf s w 1
  have h2 : tableEntry s 2 (byteOf w 1) = rotl32 (placed 1 (byteOf (sub32 s w) 1)) rotAmount := tableEntry_byteOf s w 2
  have h3 : tableEntry s 3 (byteOf w 0) = rotl32 (placed 0 (byteOf (sub32 s w) 0)) rotAmount := tableEntry_byteOf s w 3
  have hrot : rotAmount < 32 := by decide
  rw [h0, h1, h2, h3, ← rotl32_xor _ _ hrot, ← rotl32_xor _ _ hrot, ← rotl32_xor _ _ hrot, xor_placed]

/-- F is add, substitute, rotate (41_round_scalar.md R132). -/
theorem roundF_buildTables (s : SBox) (x k : Word) : roundF (buildTables s) x k = rotl32 (sub32 s (x + k)) rotAmount := by
  rw [← xor_tableEntry, roundF]
  simp only [tlookup_buildTables, xor32, add32]

/-- F depends on its operands through their sum (R135). -/
theorem roundF_eq_of_add_eq (t : TableBank) {x k y l : Word} (h : x + k = y + l) : roundF t x k = roundF t y l := by
  rw [roundF, roundF, add32, add32, h]

theorem roundF_comm (t : TableBank) (x k : Word) : roundF t x k = roundF t k x := roundF_eq_of_add_eq t (BitVec.add_comm x k)

/-- F is injective in its first operand, the three parts being so. -/
theorem roundF_injective {s : SBox} (h : s.Permutes) (k : Word) : Function.Injective fun x => roundF (buildTables s) x k := by
  intro x y hxy
  simp only [roundF_buildTables] at hxy
  exact (BitVec.add_left_inj k).mp (sub32_injective h (rotl32_injective (by decide) hxy))

/-! ### The statements -/

/-- Settles O36: the four bytes are those of the word they form, and the four entries its placed substitute, rotated. -/
theorem tableLookupsComputeSubstitutionAndRotation : Obligations.TableLookupsComputeSubstitutionAndRotation := by
  intro sbox b0 b1 b2 b3
  have hxor := xor_tableEntry sbox (b0 ++ b1 ++ b2 ++ b3)
  simp only [byteOf_word _ _ _ _ (show 0 < 4 by decide), byteOf_word _ _ _ _ (show 1 < 4 by decide),
    byteOf_word _ _ _ _ (show 2 < 4 by decide), byteOf_word _ _ _ _ (show 3 < 4 by decide)] at hxor
  simp only [tlookup_buildTables]
  exact hxor

/-- Settles O37: the rotation takes bit i from bit i - 11, which is outside the place of the table's byte. -/
theorem tableEntriesKeepToTheirFields : Obligations.TableEntriesKeepToTheirFields := by
  intro sbox j b i hi hfield
  have hp : (tablePosition j).val = 3 - j.val := rfl
  rw [tlookup_buildTables, tableEntry_eq_placed, getLsbD_rotl32 _ (by decide) hi, getLsbD_placed _ _ (Nat.mod_lt _ (by decide)), hp,
    rotAmount]
  split_ifs with hlow
  · refine getLsbD_of_ge _ _ ?_
    by_contra hin
    exact hfield ((i + 32 - 11) % 32 - 8 * (3 - j.val)) (by omega) (by omega)
  · rfl

/-- Settles O38: the rows are injective, and so are the substitution of a byte, its place and the rotation. -/
theorem substitutionAndTablesAreInjective : Obligations.SubstitutionAndTablesAreInjective := by
  refine fun sbox hperm => ⟨fun v w => sub32_injective hperm, fun j b c hbc => ?_⟩
  rw [tlookup_buildTables, tlookup_buildTables] at hbc
  exact tableEntry_injective hperm j hbc

/-- Settles O39. -/
theorem roundFunctionIsAddSubstituteRotate : Obligations.RoundFunctionIsAddSubstituteRotate := roundF_buildTables

/-- Settles O40: an injective map of the finite set of words is a bijection. -/
theorem roundFunctionIsBijectiveInEachOperand : Obligations.RoundFunctionIsBijectiveInEachOperand := by
  refine ⟨fun t x k => ⟨roundF_comm t x k, roundF_eq_of_add_eq t (BitVec.add_zero _).symm⟩, fun sbox hperm k => ?_⟩
  have hfirst := Finite.injective_iff_bijective.mp (roundF_injective hperm k)
  refine ⟨hfirst, ?_⟩
  rwa [funext fun x => roundF_comm (buildTables sbox) k x]

/-- Settles O42: lane by lane, F8 is F of the lanes. -/
theorem vectorRoundFunctionOfBroadcasts : Obligations.VectorRoundFunctionOfBroadcasts := by
  refine fun t x k => ext_lanes fun l hl => ?_
  rw [lane_roundF8 _ _ _ hl, lane_bcast8 _ hl, lane_bcast8 _ hl, lane_bcast8 _ hl]

end Sys2Proof.Machine
end

section
/-! The byte and lane primitives (00_scope.md R13 to R15), the shuffles (45_shuffle.md R211 to R219) and the load and store of
blocks (20_memory.md R51 to R54): words are compared by their bytes and registers by their lanes. -/

namespace Sys2Proof.Machine
open Sys2Proof.Machine.Ref

/-! ### Shuffles, lane by lane -/

/-- Word n of the block set of an interleaving is word n interleaved (R213, R214). -/
theorem blockSetWord_vint (p q : VReg) {n : Nat} (h : n < 16) :
    blockSetWord (vint p q).1 (vint p q).2 n = interleavedWord p q n := by
  rw [blockSetWord]
  split_ifs with hn
  · rw [lane_vint_fst _ _ hn]
  · rw [lane_vint_snd _ _ (by omega), Nat.sub_add_cancel (by omega)]

/-- Word n of the interleaving of a de-interleaved block set is word n of the block set. -/
theorem interleavedWord_vdeint (a b : VReg) {n : Nat} (h : n < 16) :
    interleavedWord (vdeint a b).1 (vdeint a b).2 n = blockSetWord a b n := by
  rw [interleavedWord]
  split_ifs with hn
  · rw [lane_vdeint_fst _ _ (by omega), show 2 * (n / 2) = n by omega]
  · rw [lane_vdeint_snd _ _ (by omega), show 2 * (n / 2) + 1 = n by omega]

theorem vint_vdeint (a b : VReg) : vint (vdeint a b).1 (vdeint a b).2 = (a, b) := by
  refine Prod.ext (ext_lanes fun l hl => ?_) (ext_lanes fun l hl => ?_)
  · rw [lane_vint_fst _ _ hl, interleavedWord_vdeint _ _ (by omega), blockSetWord, if_pos hl]
  · rw [lane_vint_snd _ _ hl, interleavedWord_vdeint _ _ (by omega), blockSetWord, if_neg (by omega), Nat.add_sub_cancel]

theorem vdeint_vint (p q : VReg) : vdeint (vint p q).1 (vint p q).2 = (p, q) := by
  refine Prod.ext (ext_lanes fun l hl => ?_) (ext_lanes fun l hl => ?_)
  · rw [lane_vdeint_fst _ _ hl, blockSetWord_vint _ _ (by omega), interleavedWord, if_pos (by omega),
      Nat.mul_div_cancel_left _ (by decide)]
  · rw [lane_vdeint_snd _ _ hl, blockSetWord_vint _ _ (by omega), interleavedWord, if_neg (by omega),
      show (2 * l + 1) / 2 = l by omega]

theorem vbswap32_vbswap32 (v : VReg) : vbswap32 (vbswap32 v) = v := by
  refine ext_lanes fun l hl => ?_
  rw [lane_vbswap32 _ hl, lane_vbswap32 _ hl, bswap32_bswap32]

/-! ### Loads -/

/-- Byte m of a loaded register is the byte at o + m (R211). -/
theorem vload_byte (b : Nat → Byte) (o : Nat) {m : Nat} (hm : m < 32) : (vload b o).extractLsb' (8 * m) 8 = b (o + m) := by
  rw [vreg_byte, lane_vload _ _ (by omega), byteOf_le32 _ _ (Nat.mod_lt _ (by decide)), Nat.add_assoc, Nat.div_add_mod]

/-- LOAD8 leaves the words of the block set in turn in the two halves (R217, R218). -/
theorem lane_load8_words (b : Nat → Byte) (w : Work) {i : Nat} (hi : i < 8) :
    lane (load8 b w).vn1 i = be32 b (8 * i) ∧ lane (load8 b w).vn2 i = be32 b (8 * i + 4) := by
  simp only [load8]
  rw [lane_vdeint_fst _ _ hi, lane_vdeint_snd _ _ hi, blockSetWord_loaded b (by omega), blockSetWord_loaded b (by omega),
    show 4 * (2 * i) = 8 * i by omega, show 4 * (2 * i + 1) = 8 * i + 4 by omega]
  exact ⟨rfl, rfl⟩

/-- Interleaving what LOAD8 left gives the words of the buffer in order. -/
theorem interleavedWord_load8 (b : Nat → Byte) (w : Work) {n : Nat} (hn : n < 16) :
    interleavedWord (load8 b w).vn1 (load8 b w).vn2 n = be32 b (4 * n) := by
  obtain ⟨hfst, hsnd⟩ := lane_load8_words b w (show n / 2 < 8 by omega)
  rw [interleavedWord]
  split_ifs with hpar
  · rw [hfst, show 8 * (n / 2) = 4 * n by omega]
  · rw [hsnd, show 8 * (n / 2) + 4 = 4 * n by omega]

/-! ### The statements -/

/-- Settles O43: each clause is the law of its primitive. -/
theorem primitivesFollowTheirBitDefinitions : Obligations.PrimitivesFollowTheirBitDefinitions := by
  refine ⟨BitVec.toNat_add, fun a n i _ hn hi => ?rotl, fun w p i _ hi => getLsbD_byteOf w p hi, fun w p => byteOf_bswap32 w,
    fun b o p => byteOf_be32 b o, fun b o => (bswap32_le32 b o).symm, fun f l => lane_ofLanes f⟩
  case rotl =>
    rw [getLsbD_rotl32 _ hn (Nat.mod_lt _ (by decide)), show ((i + n) % 32 + 32 - n) % 32 = i by omega]

/-- Settles O44: the bytes stored are the bytes of the register, lowest first. -/
theorem vectorLoadAndStoreMoveBytesInOrder : Obligations.VectorLoadAndStoreMoveBytesInOrder := by
  refine ⟨fun b o m => vload_byte b o, fun b o m hm => ?_⟩
  have hlen : m < (vstoreBytes (vload b o)).length := by rwa [vstoreBytes_length]
  rw [List.getElem?_eq_getElem hlen, vstoreBytes_getElem, ← vreg_byte, vload_byte b o hm]

/-- Settles O45. -/
theorem shufflesAreInverse : Obligations.ShufflesAreInverse := ⟨vbswap32_vbswap32, vint_vdeint, vdeint_vint⟩

/-- Settles O46. -/
theorem loadSequenceSplitsBlocksLikeTheScalarPath : Obligations.LoadSequenceSplitsBlocksLikeTheScalarPath :=
  fun b w _ => lane_load8_words b w

/-- Settles O47: byte m stored is byte m mod 4 of word m / 4, most significant first, and so it was loaded. -/
theorem loadThenStoreCopiesTheBlocks : Obligations.LoadThenStoreCopiesTheBlocks := by
  refine fun s w => ⟨fun m hm => ?copied, fun a ha => ?kept⟩
  case copied =>
    rw [buf_eq_byteAt, dout_base, byteAt_store8, if_pos (by omega), Nat.add_sub_cancel_left,
      interleavedWord_load8 _ _ (by omega), byteOf_be32 _ _ (by omega)]
    exact congrArg _ (by omega)
  case kept =>
    rw [dout_base] at ha
    rw [byteAt_store8, if_neg ha]

/-- Settles O53: byte j stored is byte j mod 4 of half j / 4, most significant first, and so it was loaded. -/
theorem scalarLoadThenStoreCopiesTheBlock : Obligations.ScalarLoadThenStoreCopiesTheBlock := by
  refine fun s => ⟨fun j hj => ?copied, fun a ha => ?kept⟩
  case copied =>
    rw [buf_eq_byteAt, dout_base, byteAt_putDout, byteAt_putDout]
    by_cases h : j < 4
    · rw [if_neg (by omega), if_pos (by omega), byteOf_be32 _ _ (by omega)]
      exact congrArg _ (by omega)
    · rw [if_pos (by omega), byteOf_be32 _ _ (by omega)]
      exact congrArg _ (by omega)
  case kept =>
    rw [dout_base] at ha
    rw [byteAt_putDout, byteAt_putDout, if_neg (by omega), if_neg (by omega)]

end Sys2Proof.Machine
end

section
/-! The two engines against each other (44_feistel_scalar.md R194, R195, 46_feistel_vector.md R230, R234): 31 rounds and the
last one are 32 uniform rounds with the halves exchanged, each round can be undone, and lane i of ENC8 is ENC1 on block i under
the keys of lane i. -/

namespace Sys2Proof.Machine
open Sys2Proof.Machine.Ref

/-! ### The reference cipher -/

/-- The last round is a round without the exchange (44_feistel_scalar.md R194). -/
theorem encipher_eq_swap (f : Word → Word → Word) (k : Nat → Word) (p : Word × Word) :
    encipher f k p = (pairAfter f k p 32).swap := rfl

/-- A round can be undone, whatever the round function (R195). -/
theorem pairAfter_injective (f : Word → Word → Word) (k : Nat → Word) (n : Nat) :
    Function.Injective (pairAfter f k · n) := by
  intro p q h
  induction n with
  | zero => exact h
  | succ n ih =>
    obtain ⟨hsnd, hxor⟩ := Prod.ext_iff.mp h
    have hsnd' : (pairAfter f k p n).2 = (pairAfter f k q n).2 := hsnd
    have hxor' : (pairAfter f k p n).1 ^^^ f (pairAfter f k p n).2 (k n) =
        (pairAfter f k q n).1 ^^^ f (pairAfter f k q n).2 (k n) := hxor
    rw [hsnd'] at hxor'
    exact ih (Prod.ext ((BitVec.xor_left_inj _).mp hxor') hsnd')

theorem encipher_injective (f : Word → Word → Word) (k : Nat → Word) : Function.Injective (encipher f k) := fun _ _ h =>
  pairAfter_injective f k 32 (Prod.swap_injective h)

/-- After ENC1's loop and last round RC is 32 (10_state.md R27). -/
theorem enc1Work_rc (t : TableBank) (rk : Vector Word 32) (n1 n2 : Word) (w : Work) : (enc1Work t rk n1 n2 w).rc = 32#6 := by
  have hrc := scalarRounds_rc t rk (n := 31) (by omega) (w := { w with n1 := n1, n2 := n2, rc := 0#6 }) rfl
  refine BitVec.eq_of_toNat_eq ?_
  rw [enc1Work, scalarLast, BitVec.toNat_add, hrc]
  rfl

/-! ### Blocks and their bytes -/

/-- A pair of halves is determined by its eight bytes. -/
theorem pair_of_blockBytes {p q : Word × Word} (h : ∀ j, j < 8 → blockByte p j = blockByte q j) : p = q := by
  refine Prod.ext (ext_bytes fun n hn => ?_) (ext_bytes fun n hn => ?_)
  · have hj := h (3 - n) (by omega)
    rwa [blockByte, blockByte, if_pos (by omega), if_pos (by omega), show 3 - (3 - n) % 4 = n by omega] at hj
  · have hj := h (7 - n) (by omega)
    rwa [blockByte, blockByte, if_neg (by omega), if_neg (by omega), show 3 - (7 - n) % 4 = n by omega] at hj

/-- The bytes of a block of DIN are the bytes of its two halves (20_memory.md R51). -/
theorem blockByte_dinBlock (s : State) (i : Nat) {j : Nat} (hj : j < 8) :
    blockByte (dinBlock s i) j = s.buf .din (8 * i + j) := by
  rw [blockByte, dinBlock, Nat.mod_eq_of_lt hj]
  split_ifs with hlow
  · rw [byteOf_be32 _ _ (by omega)]
    exact congrArg _ (by omega)
  · rw [byteOf_be32 _ _ (by omega)]
    exact congrArg _ (by omega)

/-- Blocks with the same bytes, wherever they stand. -/
theorem dinBlock_eq_of_bytes {s s' : State} {i i' : Nat} (h : ∀ j, j < 8 → s'.buf .din (8 * i' + j) = s.buf .din (8 * i + j)) :
    dinBlock s' i' = dinBlock s i :=
  pair_of_blockBytes fun j hj => by rw [blockByte_dinBlock _ _ hj, blockByte_dinBlock _ _ hj, h j hj]

/-- The bytes of block i in a row of blocks. -/
theorem blockByte_add (p : Word × Word) (i j : Nat) : blockByte p (8 * i + j) = blockByte p j := by
  rw [blockByte, blockByte, Nat.mul_add_mod, show (8 * i + j) % 4 = j % 4 by omega]

/-- Block i of DOUT after ENC8: block i of DIN enciphered under the keys of lane i (46_feistel_vector.md R232). -/
theorem dout_enc8Body_block (s : State) {i j : Nat} (hi : i < 8) (hj : j < 8) :
    (enc8Body s).buf .dout (8 * i + j) = blockByte (encipher (roundF s.tables) (laneKey s i) (dinBlock s i)) j := by
  rw [dout_enc8Body s (by omega), show (8 * i + j) / 8 = i by omega, blockByte_add]

/-! ### Schedules from one key -/

theorem buf_setkeyBody (s : State) (b : Buffer) : (setkeyBody s).buf b = s.buf b := funext fun _ => byteAt_setkeyBody s _

theorem buf_setkeyvBody (s : State) (b : Buffer) : (setkeyvBody s).buf b = s.buf b := funext fun _ => byteAt_setkeyvBody s _

/-- The keys of the banks SETKEY and SETKEYV build from the same 32 bytes are the same (43_key_schedule.md R173). -/
theorem laneKey_setkeyvBody {s s1 : State} (h : ∀ j, j < 32 → s1.buf .keyin j = s.buf .keyin j) {i : Nat} (hi : i < 8) :
    laneKey (setkeyvBody s) i = scalarKey (setkeyBody s1) := by
  funext r
  rw [laneKey, scalarKey, setkeyvBody_vrk, setkeyBody_rk, lane_kexpand8_get s.keyWord _ ⟨i, hi⟩,
    kexpand_congr fun _ hk => (keyWord_congr h hk).symm]

/-! ### The four keyed commands, running -/

theorem exec_setkey {s : State} (herr : s.err = 0#4) : exec (.setkey 32) s = .next (setkeyBody s) := exec_of_ok herr rfl rfl

theorem exec_setkeyv {s : State} (herr : s.err = 0#4) : exec (.setkeyv 32) s = .next (setkeyvBody s) := exec_of_ok herr rfl rfl

theorem exec_enc1 {s : State} (herr : s.err = 0#4) (hksv : s.ksv = true) : exec (.enc1 8) s = .next (enc1Body s) :=
  exec_of_ok herr rfl hksv

theorem exec_enc8 {s : State} (herr : s.err = 0#4) (hvksv : s.vksv = true) : exec (.enc8 64) s = .next (enc8Body s) :=
  exec_of_ok herr rfl hvksv

/-! ### The statements -/

/-- Settles O48. -/
theorem enc1IsUniformRoundsAndOneExchange : Obligations.Enc1IsUniformRoundsAndOneExchange := by
  intro t rk n1 n2 w
  have hpair := enc1Work_pair t rk n1 n2 w
  rw [encipher_eq_swap, roundF_eq_fourLookups] at hpair
  obtain ⟨hn1, hn2⟩ := Prod.ext_iff.mp hpair
  exact ⟨hn1, hn2, enc1Work_rc t rk n1 n2 w⟩

/-- Settles O49: the bytes of DOUT give the enciphered pair, and from it the pair enciphered. -/
theorem enc1IsInjectiveOnBlocks : Obligations.Enc1IsInjectiveOnBlocks := by
  intro s s' t t' herr herr' hksv hksv' htables hrk hs hs' hdout j hj
  rw [exec_enc1 herr hksv] at hs
  rw [exec_enc1 herr' hksv'] at hs'
  cases hs
  cases hs'
  have hkey : scalarKey s' = scalarKey s := by funext r; rw [scalarKey, scalarKey, hrk]
  have hcipher : encipher (roundF s.tables) (scalarKey s) (dinBlock s' 0) =
      encipher (roundF s.tables) (scalarKey s) (dinBlock s 0) := by
    refine pair_of_blockBytes fun q hq => ?_
    rw [← dout_enc1Body s hq, ← htables, ← hkey, ← dout_enc1Body s' hq]
    exact hdout q hq
  have hblock := encipher_injective _ _ hcipher
  have hbyte := congrArg (blockByte · j) hblock
  simpa only [blockByte_dinBlock _ _ hj, Nat.mul_zero, Nat.zero_add] using hbyte

/-- Settles O50: each command reads KEYIN only and keeps the bank of the other. -/
theorem bothSchedulesFromOneKeyAgree : Obligations.BothSchedulesFromOneKeyAgree := by
  intro s herr
  refine ⟨⟨setkeyBody s, setkeyvBody (setkeyBody s), exec_setkey herr, ?_, ?_, setkeyvBody_vksv _, fun r l => ?_⟩,
    ⟨setkeyvBody s, setkeyBody (setkeyvBody s), exec_setkeyv herr, ?_, setkeyBody_ksv _, ?_, fun r l => ?_⟩⟩
  · exact exec_setkeyv (by rw [setkeyBody_err, herr])
  · rw [setkeyvBody_ksv, setkeyBody_ksv]
  · rw [lane_setkeyvBody_vrk_get, setkeyvBody_rk, setkeyBody_rk_get, buf_setkeyBody]
  · exact exec_setkey (by rw [setkeyvBody_err, herr])
  · rw [setkeyBody_vksv, setkeyvBody_vksv]
  · rw [setkeyBody_vrk, lane_setkeyvBody_vrk_get, setkeyBody_rk_get, buf_setkeyvBody]

/-- Settles O51: lane i of the vector bank holds the keys of the scalar one, and the two blocks are the same. -/
theorem vectorEncryptionEqualsScalarEncryption : Obligations.VectorEncryptionEqualsScalarEncryption := by
  intro s s1 i hi herr herr1 htables hkeyin hdin
  refine ⟨setkeyvBody s, enc8Body (setkeyvBody s), setkeyBody s1, enc1Body (setkeyBody s1), exec_setkeyv herr, ?_,
    exec_setkey herr1, ?_, fun p hp => ?_⟩
  · exact exec_enc8 (by rw [setkeyvBody_err, herr]) (setkeyvBody_vksv s)
  · exact exec_enc1 (by rw [setkeyBody_err, herr1]) (setkeyBody_ksv s1)
  · have hblock : dinBlock (setkeyBody s1) 0 = dinBlock (setkeyvBody s) i := dinBlock_eq_of_bytes fun j hj => by
      rw [buf_setkeyBody, buf_setkeyvBody, Nat.mul_zero, Nat.zero_add, hdin j hj]
    rw [dout_enc8Body_block _ hi hp, dout_enc1Body _ hp, laneKey_setkeyvBody hkeyin hi, hblock, setkeyvBody_tables,
      setkeyBody_tables, htables]

/-- Settles O52: block i of DOUT is a function of the bank, the keys of lane i and block i of DIN. -/
theorem enc8LanesAreIndependent : Obligations.Enc8LanesAreIndependent := by
  intro s s' t t' i hi herr herr' hvksv hvksv' htables hkeys hdin hs hs' p hp
  rw [exec_enc8 herr hvksv] at hs
  rw [exec_enc8 herr' hvksv'] at hs'
  cases hs
  cases hs'
  have hkey : laneKey s' i = laneKey s i := funext fun r => hkeys _
  rw [dout_enc8Body_block s' hi hp, dout_enc8Body_block s hi hp, htables, hkey, dinBlock_eq_of_bytes hdin]

end Sys2Proof.Machine
end
